-- ==== Sys2Proof/Word.lean ====
section
/-! DEFINITION. The word types of the block: every value of the spec is an unsigned word of a fixed width (R11). -/

namespace Sys2Proof

/-- One bit of a word. -/
abbrev Bit := BitVec 1

/-- A byte: register ids, packet bytes, script bytes (R10: `W_REGID`, `W_PBYTE`). -/
abbrev Byte := BitVec 8

/-- A wire word of one write transfer (R100; R10: `W_FRAME`). -/
abbrev Word9 := BitVec 9

/-- A bridge register value, and the raw bits of one read transfer (R10: `W_VALUE`, `W_READ`). -/
abbrev Half := BitVec 16

/-- A host access moves one of these (R74: `HOST_BUS_WIDTH`). -/
abbrev Word := BitVec 32

/-- A byte offset in the 0x2000-byte host window (R31). -/
abbrev Offset := BitVec 13

end Sys2Proof
end

