-- ==== Sys2Proof/Config.lean ====
section
/-! DEFINITION. The fixed sizes of the block, the parameters a model takes as arguments (R10), and the free values
that the spec leaves to the outside. -/

namespace Sys2Proof

/-- `SCRIPT_BYTES` (R10). -/
abbrev Config.scriptBytes : Nat := 4096

/-- `PKT_BUF_BYTES` (R10). -/
abbrev Config.pktBufBytes : Nat := 256

/-- Window offset of script byte 0 (R31). -/
abbrev Config.scriptBase : Nat := 0x1000

/-- Window offset of packet buffer byte 0 (R31). -/
abbrev Config.pktBufBase : Nat := 0x100

/-- `BRIGHT_MAX` (R10). -/
abbrev Config.brightMax : Nat := 100

/-- `T_BIT` in transport time units (R10; fixed by the source). -/
abbrev Config.tBit : Nat := 1

/-- The parameters of R10 that a model takes as arguments: two transport waits in TU, the three wire tags, and
the bridge ids. No rule of the spec depends on their defaults (R3, R103; notes/assumptions/7.md). -/
structure Params where
  /-- `T_CSS`. -/
  tCss : Nat
  /-- `T_IFD`. -/
  tIfd : Nat
  /-- `TAG_CMD`. -/
  tagCmd : Bit
  /-- `TAG_DATA`. -/
  tagData : Bit
  /-- `TAG_DSI`. -/
  tagDsi : Bit
  /-- `REG_PKT_LEN`. -/
  regPktLen : Byte
  /-- `REG_PKT_DROP`. -/
  regPktDrop : Byte
  /-- `REG_READ_REQ`. -/
  regReadReq : Byte
  /-- `CODE_READ_ACK`. -/
  codeReadAck : Byte
  /-- `REG_PLL_CFG`. -/
  regPllCfg : Byte
  /-- `REG_PLL_CTRL`. -/
  regPllCtrl : Byte
  deriving DecidableEq, Repr

/-- The defaults of R10's table. -/
def Config.defaults : Params where
  tCss := 2
  tIfd := 2
  tagCmd := 0
  tagData := 1
  tagDsi := 1
  regPktLen := 0xBC
  regPktDrop := 0xBF
  regReadReq := 0xD4
  codeReadAck := 0xFA
  regPllCfg := 0xBA
  regPllCtrl := 0xB9

/-- The constraints R10 puts on the parameters. -/
def Config.wf (p : Params) : Bool :=
  p.regPllCfg != p.regPllCtrl && p.regPktLen != p.regPktDrop && decide (2 ≤ p.tCss) && decide (2 ≤ p.tIfd)

/-- FREE VALUE (notes/assumptions/1.md). Whether the n-th fallible collaborator call succeeds, where the
state's list of answers does not say (R7, R13, U18). -/
opaque Config.callSucceeds : Nat → Bool

/-- FREE VALUE (notes/assumptions/2.md). The level of SDO at the n-th sample, where the state's list of
levels does not say (R7, U2, U17). -/
opaque Config.sdoLevel : Nat → Bool

/-- FREE VALUE (notes/assumptions/3.md). The content, after the given number of platform resets, of the
buffer byte at the given window offset, while the host has not written it (R47, R48). -/
opaque Config.unwrittenByte : Nat → Nat → Byte

end Sys2Proof
end

