-- ==== Sys2Proof/Syntax.lean ====
section
/-! DEFINITION. The instructions of the block: one constructor for each row of spec/opcode_table.json. -/

namespace Sys2Proof

/-- The purpose of a wire word (R102). -/
inductive Role where
  | cmd
  | data
  | dsi
  deriving DecidableEq, Repr

/-- Host commands (R110, R112), script instructions (R121, R123) and wire words (R100, R101).
A host command has no operand in its code (R111): its meaning reads the host registers. -/
inductive Instr where
  /-- ATTACH, OPC 0x01 (R233). -/
  | attach
  /-- DETACH, OPC 0x02 (R234). -/
  | detach
  /-- XFER_W9, OPC 0x10 (R235). -/
  | xferW9
  /-- XFER_R16, OPC 0x11 (R236). -/
  | xferR16
  /-- REG_WRITE, OPC 0x20 (R237). -/
  | regWrite
  /-- REG_READ, OPC 0x21 (R238). -/
  | regRead
  /-- PKT_SEND, OPC 0x22 (R239). -/
  | pktSend
  /-- POWER_ON, OPC 0x30 (R240). -/
  | powerOn
  /-- END, script byte 0x00 (R181). -/
  | endPhase
  /-- REGW id, value, script byte 0x01 (R182). -/
  | regw (id : Byte) (value : Half)
  /-- PKT b0, …, script byte 0x02 (R183). -/
  | pkt (payload : List Byte)
  /-- DELAY_MS count, script byte 0x03 (R184). -/
  | delayMs (count : Half)
  /-- DELAY_US count, script byte 0x04 (R185). -/
  | delayUs (count : Half)
  /-- A reserved script opcode, 0x05–0xFF (R123). -/
  | reservedScript (op : Byte)
  /-- A reserved host code (R112). -/
  | reservedHost (opc : Byte)
  /-- WIRE_CMD: a register id or handshake code (R100, R102, R165). -/
  | wireCmd (b : Byte)
  /-- WIRE_DATA: a byte of a register value (R100, R102, R165). -/
  | wireData (b : Byte)
  /-- WIRE_DSI: a DSI payload byte (R100, R102, R165). -/
  | wireDsi (b : Byte)
  /-- READ16: one 16-bit read transfer (R101, R141). -/
  | read16
  deriving DecidableEq, Repr

/-- The instruction that sends one wire word of a role (R165). -/
def Role.instr : Role → Byte → Instr
  | .cmd, b => .wireCmd b
  | .data, b => .wireData b
  | .dsi, b => .wireDsi b

end Sys2Proof
end

