-- ==== Sys2Proof/WellFormed.lean ====
section
/-! DEFINITION. Which terms of `Instr` the spec's encodings can stand for. -/

namespace Sys2Proof

/-- The host codes R110 lists. Every other code is reserved (R112). -/
def listedHostCode (opc : Byte) : Bool :=
  opc == 0x01 || opc == 0x02 || opc == 0x10 || opc == 0x11 ||
    opc == 0x20 || opc == 0x21 || opc == 0x22 || opc == 0x30

/-- The script opcodes R121 lists. Every other opcode is reserved (R123). -/
def listedScriptOpcode (op : Byte) : Bool :=
  op.toNat ≤ 4

/-- A packet instruction holds 1 to 255 bytes (R121, R123), and a reserved instruction a code that no
other row of the table has (R112, R123). -/
def Instr.wf : Instr → Bool
  | .pkt payload => 1 ≤ payload.length && payload.length ≤ 255
  | .reservedScript op => !listedScriptOpcode op
  | .reservedHost opc => !listedHostCode opc
  | .attach | .detach | .xferW9 | .xferR16 | .regWrite | .regRead | .pktSend | .powerOn => true
  | .endPhase | .regw _ _ | .delayMs _ | .delayUs _ => true
  | .wireCmd _ | .wireData _ | .wireDsi _ | .read16 => true

end Sys2Proof
end

