-- ==== Sys2Proof/Decode.lean ====
section
/-! DEFINITION. The decoder and the encoder of the block's three encodings: host commands (R110), script byte code
(R121, R122) and wire words (R100 to R103). -/

namespace Sys2Proof

/-- Why bits are no instruction. -/
inductive DecodeError where
  /-- There is no byte at the offset, or an instruction's bytes run past the end of the script (R122, R123). -/
  | truncated
  /-- A packet of no byte (R123). -/
  | emptyPacket
  /-- A packet in phase 1 or 3 (R123, R196). -/
  | packetOutsidePhaseTwo
  /-- Bytes follow the instruction where exactly one was expected. -/
  | trailingBytes
  /-- A role code that is not one-hot (R102). -/
  | roleNotOneHot
  /-- A wire word whose tag bit is not its role's (R103). -/
  | tagMismatch
  deriving DecidableEq, Repr

/-- Bits [7:0] of a 16-bit value. -/
def lowByte (v : Half) : Byte := v.extractLsb' 0 8

/-- Bits [15:8] of a 16-bit value. -/
def highByte (v : Half) : Byte := v.extractLsb' 8 8

/-- The 16-bit value {hi, lo} (R11). -/
def half (hi lo : Byte) : Half := hi ++ lo

/-! ### Host commands (R110 to R112) -/

/-- `OPC` is bits [7:0] of a word written to `CMD`; bits [31:8] are ignored (R32). -/
def opcOf (d : Word) : Byte := d.extractLsb' 0 8

/-- R110's table. A code it does not list is reserved (R112). -/
def decodeHost (d : Word) : Instr :=
  match (opcOf d).toNat with
  | 0x01 => .attach
  | 0x02 => .detach
  | 0x10 => .xferW9
  | 0x11 => .xferR16
  | 0x20 => .regWrite
  | 0x21 => .regRead
  | 0x22 => .pktSend
  | 0x30 => .powerOn
  | _ => .reservedHost (opcOf d)

/-! ### Script instructions (R120 to R123) -/

/-- The first n bytes of a list and the rest, if there are n. -/
def splitExact : Nat → List Byte → Option (List Byte × List Byte)
  | 0, bs => some ([], bs)
  | _ + 1, [] => none
  | n + 1, b :: bs =>
    match splitExact n bs with
    | some (front, rest) => some (b :: front, rest)
    | none => none

/-- R121's table, read by R122: one script instruction from the front of a list of bytes, and the bytes after it. -/
def decodeScript : List Byte → Except DecodeError (Instr × List Byte)
  | [] => .error .truncated
  | op :: bs =>
    match op.toNat with
    | 0x00 => .ok (.endPhase, bs)
    | 0x01 =>
      match bs with
      | id :: lo :: hi :: rest => .ok (.regw id (half hi lo), rest)
      | _ => .error .truncated
    | 0x02 =>
      match bs with
      | [] => .error .truncated
      | n :: rest =>
        if n = 0 then .error .emptyPacket
        else
          match splitExact n.toNat rest with
          | some (payload, rest') => .ok (.pkt payload, rest')
          | none => .error .truncated
    | 0x03 =>
      match bs with
      | lo :: hi :: rest => .ok (.delayMs (half hi lo), rest)
      | _ => .error .truncated
    | 0x04 =>
      match bs with
      | lo :: hi :: rest => .ok (.delayUs (half hi lo), rest)
      | _ => .error .truncated
    | _ => .ok (.reservedScript op, bs)

/-- The most bytes one script instruction has: a packet of 255 bytes (R121). -/
abbrev maxScriptLength : Nat := 257

/-! ### Wire words (R100 to R103) -/

/-- The one-hot code `ROLE[2:0]` (R102). -/
def Role.code : Role → BitVec 3
  | .cmd => 0b001
  | .data => 0b010
  | .dsi => 0b100

/-- The role of a one-hot code; exactly one bit of `ROLE` is set (R102). -/
def Role.ofCode (c : BitVec 3) : Option Role :=
  match c.toNat with
  | 1 => some .cmd
  | 2 => some .data
  | 4 => some .dsi
  | _ => none

/-- `TAG(role)` (R103). -/
def Params.tag (p : Params) : Role → Bit
  | .cmd => p.tagCmd
  | .data => p.tagData
  | .dsi => p.tagDsi

/-- The wire word `{TAG(r), b[7:0]}` (R103). -/
def wireWord (p : Params) (r : Role) (b : Byte) : Word9 := p.tag r ++ b

/-- The wire instruction of a role code and a wire word; the tag bit is the role's (R102, R103). -/
def decodeWire (p : Params) (code : BitVec 3) (w : Word9) : Except DecodeError Instr :=
  match Role.ofCode code with
  | none => .error .roleNotOneHot
  | some r => if w.extractLsb' 8 1 = p.tag r then .ok (r.instr (w.extractLsb' 0 8)) else .error .tagMismatch

/-! ### All encodings together -/

/-- What stands for an instruction where the block meets it. -/
inductive Code where
  /-- A word the host writes to `CMD` (R110). -/
  | hostWrite (d : Word)
  /-- Bytes of `SCRIPT` (R121). -/
  | script (bytes : List Byte)
  /-- The framer's role code and the word sent on the wire (R100, R102). -/
  | wire (role : BitVec 3) (w : Word9)
  /-- A read transfer, which has no bits of its own: its 16 bits are its result (R101). -/
  | readTransfer
  deriving DecidableEq, Repr

/-- The instruction that a code stands for, or why there is none. -/
def decode (p : Params) : Code → Except DecodeError Instr
  | .hostWrite d => .ok (decodeHost d)
  | .script bs =>
    match decodeScript bs with
    | .ok (i, []) => .ok i
    | .ok (_, _ :: _) => .error .trailingBytes
    | .error e => .error e
  | .wire c w => decodeWire p c w
  | .readTransfer => .ok .read16

/-- The code of an instruction, from R110's, R121's and R100's tables. -/
def encode (p : Params) : Instr → Code
  | .attach => .hostWrite 0x01
  | .detach => .hostWrite 0x02
  | .xferW9 => .hostWrite 0x10
  | .xferR16 => .hostWrite 0x11
  | .regWrite => .hostWrite 0x20
  | .regRead => .hostWrite 0x21
  | .pktSend => .hostWrite 0x22
  | .powerOn => .hostWrite 0x30
  | .endPhase => .script [0x00]
  | .regw id value => .script [0x01, id, lowByte value, highByte value]
  | .pkt payload => .script (0x02 :: BitVec.ofNat 8 payload.length :: payload)
  | .delayMs count => .script [0x03, lowByte count, highByte count]
  | .delayUs count => .script [0x04, lowByte count, highByte count]
  | .reservedScript op => .script [op]
  | .reservedHost opc => .hostWrite (opc.setWidth 32)
  | .wireCmd b => .wire Role.cmd.code (wireWord p .cmd b)
  | .wireData b => .wire Role.data.code (wireWord p .data b)
  | .wireDsi b => .wire Role.dsi.code (wireWord p .dsi b)
  | .read16 => .readTransfer

/-! ### The opcode table's words -/

/-- The n low bytes of a number, the least significant first. -/
def bytesOf : Nat → Nat → List Byte
  | 0, _ => []
  | n + 1, w => BitVec.ofNat 8 w :: bytesOf n (w / 256)

/-- The script instruction at the front of a number's bytes, zeros above it. -/
def scriptOfNat (w : Nat) : Option Instr :=
  match decodeScript (bytesOf maxScriptLength w) with
  | .ok (i, _) => some i
  | .error _ => none

/-- The script instruction of R121's table at the front of a number's bytes, a reserved opcode left out. -/
def listedScriptOfNat (w : Nat) : Option Instr :=
  if listedScriptOpcode (BitVec.ofNat 8 w) then scriptOfNat w else none

/-- The instruction of a word of spec/opcode_table.json. The table has three encodings and their rows share
words, so the number of bits says which is meant (notes/assumptions/15.md): 17 bits or more, a word written to
`CMD`; 9 to 16 bits, a wire word with the default tags (a DATA word and a DSI word look the same on the wire, R103)
or, from 0x200 on, the 16 bits of a read transfer; 8 bits or fewer, a script byte if R121 lists it and its
instruction is legal, else a listed host code, else a reserved script opcode. -/
def decodeTableWord (nbits w : Nat) : Option Instr :=
  if 16 < nbits then some (decodeHost (BitVec.ofNat 32 w))
  else if 8 < nbits then
    if w < 0x100 then some (.wireCmd (BitVec.ofNat 8 w))
    else if w < 0x200 then some (.wireData (BitVec.ofNat 8 w))
    else some .read16
  else
    match listedScriptOfNat w with
    | some i => some i
    | none =>
      if listedHostCode (BitVec.ofNat 8 w) then some (decodeHost (BitVec.ofNat 32 w))
      else scriptOfNat w

end Sys2Proof
end

