-- ==== Sys2Proof/Machine/State.lean ====
section
/-! DEFINITION. The state of the block (10_state.md), the reasons a step can stop, and the state after reset (R301). -/

namespace Sys2Proof.Machine

/-- The output lines (R45). SDO is an input and has no level of its own here. -/
inductive Line where
  | cs
  | sck
  | sdi
  | en
  | rst
  deriving DecidableEq, Repr

/-- The collaborator handles (R8, R46). -/
inductive Handle where
  | line (l : Line)
  | sdo
  | rail (k : Fin 7)
  | bl
  deriving DecidableEq, Repr

/-- The level the controller drives on a line: 0, 1 or `U` (R45). -/
inductive Level where
  | zero
  | one
  | unknown
  deriving DecidableEq, Repr

/-- `Lvl` (R45). -/
structure Levels where
  cs : Level
  sck : Level
  sdi : Level
  en : Level
  rst : Level
  deriving DecidableEq, Repr

/-- The units of a `Wait` (R8). -/
inductive TimeUnit where
  | tu
  | us
  | ms
  deriving DecidableEq, Repr

/-- The kinds of a `Fail` event (R13). -/
inductive FailKind where
  | acquire
  | set
  | get
  | rail
  | backlight
  deriving DecidableEq, Repr

/-- The events of the trace (R8). -/
inductive Event where
  | acquire (h : Handle)
  | release (h : Handle)
  | line (l : Line) (v : Bool)
  | sample (b : Bool)
  | wait (n : Nat) (u : TimeUnit)
  | rail (k : Fin 7)
  | blEnable
  | blSet (p : BitVec 7)
  | fail (kind : FailKind) (target : Handle)
  deriving DecidableEq, Repr

/-- `STATUS.LC` (R34). -/
inductive Lifecycle where
  | detached
  | attached
  | released
  | failed
  deriving DecidableEq, Repr

/-- `STATUS.PSTATE` (R34). -/
inductive PowerState where
  | unpowered
  | enableAsserted
  | regulatorsOn
  | resetAsserted
  | resetReleased
  | bridgeConfigured
  | panelScripted
  | displayOn
  deriving DecidableEq, Repr

/-- `STATUS.ERR` (R270). Codes 10 to 15 are never produced. -/
inductive ErrCode where
  | ok
  | resource
  | line
  | rail
  | backlight
  | state
  | param
  | illegalCmd
  | script
  | order
  deriving DecidableEq, Repr

/-- The fields of `STATUS` (R33), but for `BUSY`, which is "a command is in progress" (`State.cont`;
notes/assumptions/8.md). -/
structure Status where
  lc : Lifecycle
  pstate : PowerState
  aborted : Bool
  err : ErrCode
  lineFault : Bool
  busyViol : Bool
  deriving DecidableEq, Repr

/-- A delay profile register: `COUNT` and `UNIT` (R42); `unit` is true for microseconds. -/
structure DelayReg where
  count : Half
  unit : Bool
  deriving DecidableEq, Repr

/-- The collaborator calls of R13's table. -/
inductive Prim where
  | acquire (h : Handle)
  | release (h : Handle)
  | setLine (l : Line) (v : Bool)
  | getSdo
  | wait (n : Nat) (u : TimeUnit)
  | railOn (k : Fin 7)
  | blEnable
  | blSet (p : BitVec 7)
  deriving DecidableEq, Repr

/-- The three phases (R196). -/
inductive Phase where
  | one
  | two
  | three
  deriving DecidableEq, Repr

/-- A statement of the spec's pseudocode that a command in progress has still to run. -/
inductive Op where
  /-- One collaborator call (R13). -/
  | prim (p : Prim)
  /-- `W9(w)` of a raw word (R140, R235). -/
  | w9 (w : Word9)
  /-- `SendFrame(r, b)` (R165). -/
  | frame (r : Role) (b : Byte)
  /-- `R16()` (R141). -/
  | read16
  /-- `RunPhase(ph, ptr)` (R180). -/
  | runPhase (ph : Phase) (ptr : Half)
  /-- The loop of `RunPhase`: fetch the script instruction at `pc` and run it (R180). -/
  | script
  /-- `pc <- pc + n`, at the end of a script instruction (R182 to R185). -/
  | advance (n : Nat)
  /-- `x[STATUS].PSTATE <- s` (R205). -/
  | setPState (p : PowerState)
  /-- `x[RDATA] <- swap16(raw); x[RRAW] <- raw; complete` (R236, R238). -/
  | returnRead (raw : Half)
  deriving DecidableEq, Repr

/-- What a transfer moves: the word being sent, or the raw bits gathered so far (R50). -/
inductive Direction where
  | write (w : Word9)
  | read (raw : Half)
  deriving DecidableEq, Repr

/-- The position of a transfer: the call that comes next (R50, R140, R141). -/
inductive Position where
  /-- `SetLine(CS, 0)`. -/
  | select
  /-- `Wait(T_CSS, TU)`. -/
  | selectWait
  /-- `SetLine(SCK, 0)`. -/
  | clockLow
  /-- `SetLine(SDI, w[i])` of a write, `GetLine(SDO)` of a read. -/
  | data
  /-- `Wait(T_BIT, TU)` with the clock low. -/
  | lowHold
  /-- `SetLine(SCK, 1)`. -/
  | clockHigh
  /-- `Wait(T_BIT, TU)` with the clock high. -/
  | highHold
  /-- `Wait(T_IFD, TU)`. -/
  | frameWait
  /-- `SetLine(CS, 1)`. -/
  | deselect
  deriving DecidableEq, Repr

/-- The transport unit's hidden state while a transfer is in progress (R50). -/
structure Xfer where
  dir : Direction
  /-- The index of the current bit. -/
  bit : Nat
  pos : Position
  deriving DecidableEq, Repr

/-- The commands that can be in progress (R110). -/
inductive Command where
  | attach
  | detach
  | xferW9
  | xferR16
  | regWrite
  | regRead
  | pktSend
  | powerOn
  deriving DecidableEq, Repr

/-- The continuation of the command in progress (R51): the command, the current phase, the statements still to
run, and the transfer in progress (R50). The current power-sequence step is the one that leaves the current
`PSTATE` (R205; notes/assumptions/8.md). -/
structure Cont where
  cmd : Command
  phase : Option Phase
  ops : List Op
  xfer : Option Xfer
  /-- `ERR` before the command, for reads while it is in progress (R232; notes/assumptions/25.md). -/
  errBefore : ErrCode
  deriving DecidableEq, Repr

/-- The outside's answers to the block: what the collaborators answer to the n-th fallible call and what level
the bridge drives at the n-th sample, as far as the two lists go, and the counters that index them. Past the end
of a list the answer is a free value (notes/assumptions/1.md, notes/assumptions/2.md). -/
structure Env where
  answers : List Bool
  calls : Nat
  levels : List Bool
  draws : Nat
  deriving DecidableEq, Repr

/-- What the host, or the platform, does to the block (R231, R241, R300). -/
inductive HostAct where
  /-- A 32-bit write (R131 `wr`). -/
  | write (off : Offset) (d : Word)
  /-- A 32-bit read (R131 `rd`). -/
  | read (off : Offset)
  /-- An access of another width, in bytes (R74). -/
  | otherWidth (bytes : Nat) (off : Offset)
  /-- Read `STATUS` until `BUSY` = 0 (R132 `poll`). -/
  | poll
  /-- The platform's reset (R300). -/
  | reset
  deriving DecidableEq, Repr

/-- One pending action of the host, and how many steps of the machine come before it (R9). -/
structure HostSlot where
  after : Nat
  act : HostAct
  deriving DecidableEq, Repr

/-- The state of the block, and with it the model's own fields `cfg`, `host`, `reads`, `env` and `epoch`
(INVENTORY.md). -/
structure State where
  /-- `STATUS` (R33). -/
  status : Status
  /-- `ARG0` (R36). -/
  arg0 : Half
  /-- `ARG1` (R37). -/
  arg1 : Half
  /-- `RDATA` (R38). -/
  rdata : Half
  /-- `RRAW` (R39). -/
  rraw : Half
  /-- `BRIGHT` (R40). -/
  bright : BitVec 7
  /-- `NRAILS` (R41). -/
  nrails : BitVec 3
  /-- `T_EN` (R42). -/
  tEn : DelayReg
  /-- `T_RSTLO` (R42). -/
  tRstLo : DelayReg
  /-- `T_RSTHI` (R42). -/
  tRstHi : DelayReg
  /-- `PH1_PTR` (R43). -/
  ph1 : Half
  /-- `PH2_PTR` (R43). -/
  ph2 : Half
  /-- `PH3_PTR` (R43). -/
  ph3 : Half
  /-- `SP`, also written `pc` (R35). -/
  sp : Half
  /-- `PKTBUF` and `SCRIPT`, by window offset; an offset is listed once the host has written it (R47 to R49). -/
  mem : List Host.Cell
  /-- `Lvl` (R45). -/
  lvl : Levels
  /-- `Own`, in the order of acquisition (R46). -/
  own : List Handle
  /-- The continuation, while a command is in progress (R51). -/
  cont : Option Cont
  /-- The trace, oldest event first (R8, R52). -/
  trace : List Event
  /-- The parameters (R10); no step changes them. -/
  cfg : Params
  /-- The host's pending actions, the next one first. -/
  host : List HostSlot
  /-- What the host's reads returned, oldest first. -/
  reads : List Word
  /-- The answers of the collaborators and of the bridge. -/
  env : Env
  /-- How many platform resets there have been. -/
  epoch : Nat
  deriving DecidableEq, Repr

/-- `STATUS.BUSY`: a command is in progress (R33, R51). -/
def State.busy (s : State) : Bool := s.cont.isSome

/-- Why the machine stops. -/
inductive Fault where
  /-- Raised by POWER_ON's validation and by PKT_SEND for the first buffer byte, at this window offset, that the
  host has never written (R49, R273). Safe: the spec gives such a read no defined value and names this fault. -/
  | unwrittenBuffer (off : Nat)
  /-- Raised by a script instruction or a wire word that is run with no command in progress. Safe: "No controller
  step runs without a command in progress" (R9); no step of the machine raises it. -/
  | noCommand
  /-- Raised by a script instruction or a wire word that is run inside a transfer. Safe: a transfer never starts
  while another is in progress (R148); no step of the machine raises it. -/
  | transferInProgress
  /-- Raised by the fetch of a script instruction that validation refuses. Safe: "An illegal instruction therefore
  never executes" (R123); only states that no run reaches raise it. -/
  | scriptNotValidated
  deriving DecidableEq, Repr

/-- Why the machine has no step. -/
inductive Refusal where
  /-- Raised by `exec` alone, for an instruction that has no meaning yet. Safe. -/
  | notModelled (mnemonic : String)
  /-- Raised by a host access that is not 32 bits wide or not at a multiple of 4 (HOST_BUS_ERROR, R74, R273).
  Safe: the spec says that a model refuses it. -/
  | hostBusError (off : Offset)
  deriving DecidableEq, Repr

/-- The machine right after reset (R301). The fields `cfg`, `host`, `reads`, `env` and `epoch` are the model's
own: the parameters' defaults, and nothing pending (notes/assumptions/1.md, 2.md, 3.md, 5.md, 7.md). -/
def State.reset : State where
  status := ⟨.detached, .unpowered, false, .ok, false, false⟩
  arg0 := 0
  arg1 := 0
  rdata := 0
  rraw := 0
  bright := 100
  nrails := 1
  tEn := ⟨0, false⟩
  tRstLo := ⟨0, false⟩
  tRstHi := ⟨0, false⟩
  ph1 := 0
  ph2 := 0
  ph3 := 0
  sp := 0
  mem := []
  lvl := ⟨.unknown, .unknown, .unknown, .unknown, .unknown⟩
  own := []
  cont := none
  trace := []
  cfg := Config.defaults
  host := []
  reads := []
  env := ⟨[], 0, [], 0⟩
  epoch := 0

end Sys2Proof.Machine
end

