-- ==== Sys2Proof/Machine/Flags.lean ====
section
/-! DEFINITION. The `STATUS` word: the codes of its fields (R33, R34, R270). -/

namespace Sys2Proof.Machine

/-- The code of `LC` (R34). -/
def Lifecycle.code : Lifecycle → BitVec 2
  | .detached => 0
  | .attached => 1
  | .released => 2
  | .failed => 3

/-- The code of `PSTATE` (R34). -/
def PowerState.code : PowerState → BitVec 3
  | .unpowered => 0
  | .enableAsserted => 1
  | .regulatorsOn => 2
  | .resetAsserted => 3
  | .resetReleased => 4
  | .bridgeConfigured => 5
  | .panelScripted => 6
  | .displayOn => 7

/-- The power states in the source's order, after the given one (R34, R54). -/
def PowerState.later : PowerState → List PowerState
  | .unpowered =>
    [.enableAsserted, .regulatorsOn, .resetAsserted, .resetReleased, .bridgeConfigured, .panelScripted, .displayOn]
  | .enableAsserted => [.regulatorsOn, .resetAsserted, .resetReleased, .bridgeConfigured, .panelScripted, .displayOn]
  | .regulatorsOn => [.resetAsserted, .resetReleased, .bridgeConfigured, .panelScripted, .displayOn]
  | .resetAsserted => [.resetReleased, .bridgeConfigured, .panelScripted, .displayOn]
  | .resetReleased => [.bridgeConfigured, .panelScripted, .displayOn]
  | .bridgeConfigured => [.panelScripted, .displayOn]
  | .panelScripted => [.displayOn]
  | .displayOn => []

/-- The code of `ERR` (R270). -/
def ErrCode.code : ErrCode → BitVec 4
  | .ok => 0
  | .resource => 1
  | .line => 2
  | .rail => 3
  | .backlight => 4
  | .state => 5
  | .param => 6
  | .illegalCmd => 7
  | .script => 8
  | .order => 9

/-- A flag as one bit. -/
def flagBit (b : Bool) : Bit := BitVec.ofBool b

/-- What a read of `STATUS` shows in `ERR`: the register with no command in progress, and while one is, the value from
before it (R232; DEDUCED how this goes with R230, R33 and R270: notes/assumptions/25.md). -/
def State.errRead (s : State) : ErrCode :=
  match s.cont with
  | none => s.status.err
  | some c => c.errBefore

/-- The `STATUS` word: `BUSY` [0], `LC` [2:1], `PSTATE` [6:4], `ABORTED` [7], `ERR` [11:8], `LINE_FAULT` [12],
`BUSY_VIOL` [13]; bit 3 and bits [31:14] read 0 (R33). -/
def State.statusWord (s : State) : Word :=
  (0 : BitVec 18) ++ (flagBit s.status.busyViol ++ (flagBit s.status.lineFault ++ (s.errRead.code ++
    (flagBit s.status.aborted ++ (s.status.pstate.code ++ ((0 : Bit) ++ (s.status.lc.code ++ flagBit s.busy)))))))

/-- The power-sequence step in progress, by the number of its rule's S (R200, R205): each step leaves one value of
`PSTATE`, but for S3, which leaves two (R209). -/
def PowerState.step : PowerState → Option Nat
  | .unpowered => some 1
  | .enableAsserted => some 2
  | .regulatorsOn => some 3
  | .resetAsserted => some 3
  | .resetReleased => some 4
  | .bridgeConfigured => some 5
  | .panelScripted => some 6
  | .displayOn => none

/-- The current power-sequence step of the continuation (R51): defined while POWER_ON is in progress. -/
def State.powerStep (s : State) : Option Nat :=
  match s.cont with
  | some c => if c.cmd = .powerOn then s.status.pstate.step else none
  | none => none

/-- The condition under which a transfer command is accepted: `LC` = Attached and `LINE_FAULT` = 0 (R230). -/
def State.transferAllowed (s : State) : Bool :=
  s.status.lc == .attached && !s.status.lineFault

/-- The condition under which POWER_ON is accepted (R230, R214). -/
def State.powerAllowed (s : State) : Bool :=
  s.transferAllowed && s.status.pstate == .unpowered && !s.status.aborted

end Sys2Proof.Machine
end

