-- ==== Sys2Proof/Machine/Ops.lean ====
section
/-! DEFINITION. The shared operations: buffer bytes, the trace, the collaborator calls of R13, and the two ways a
command ends in an error, `reject` (R272) and `raise` (R274). The block has no trap entry and no return from an error
(R278, R279). -/

namespace Sys2Proof.Machine

/-! ### Buffer bytes (R47 to R49) -/

/-- The buffer bytes the host has written, by window offset. -/
abbrev Mem := List Host.Cell

/-- The byte at an offset, if the host has written it since reset (R49). -/
def Mem.read : Mem → Nat → Option Byte
  | [], _ => none
  | (a, b) :: m, x => if a = x then some b else Mem.read m x

/-- Store a byte, keeping the offsets strictly rising. -/
def Mem.write : Mem → Nat → Byte → Mem
  | [], x, b => [(x, b)]
  | (a, c) :: m, x, b =>
    if x < a then (x, b) :: (a, c) :: m
    else if x = a then (x, b) :: m
    else (a, c) :: Mem.write m x b

/-- Every listed offset is above a bound, and they rise strictly. -/
def Mem.above : Nat → Mem → Bool
  | _, [] => true
  | lo, (a, _) :: m => decide (lo ≤ a) && Mem.above (a + 1) m

/-- The canonical form: strictly rising offsets. What an unlisted offset reads as is no value, so no entry can
equal it. -/
def Mem.wf (m : Mem) : Bool := Mem.above 0 m

/-- The four bytes of a word, little-endian, at an offset (R72, R73). -/
def Mem.writeWord (m : Mem) (off : Nat) (d : Word) : Mem :=
  (((m.write off (d.extractLsb' 0 8)).write (off + 1) (d.extractLsb' 8 8)).write (off + 2)
    (d.extractLsb' 16 8)).write (off + 3) (d.extractLsb' 24 8)

/-- The byte a read gives: the written byte, or a free value (notes/assumptions/3.md). -/
def State.byteAt (s : State) (off : Nat) : Byte :=
  match Mem.read s.mem off with
  | some b => b
  | none => Config.unwrittenByte s.epoch off

/-! ### Lines and handles (R45, R46) -/

def Levels.get (v : Levels) : Line → Level
  | .cs => v.cs
  | .sck => v.sck
  | .sdi => v.sdi
  | .en => v.en
  | .rst => v.rst

def Levels.set (v : Levels) (l : Line) (x : Level) : Levels :=
  match l with
  | .cs => { v with cs := x }
  | .sck => { v with sck := x }
  | .sdi => { v with sdi := x }
  | .en => { v with en := x }
  | .rst => { v with rst := x }

def Level.ofBool : Bool → Level
  | false => .zero
  | true => .one

/-- Every handle, in the order ATTACH acquires them (R233). -/
def allHandles : List Handle :=
  [.line .cs, .line .sck, .line .sdi, .sdo, .line .en, .line .rst,
    .rail 0, .rail 1, .rail 2, .rail 3, .rail 4, .rail 5, .rail 6, .bl]

/-- Add a handle to `Own`, a set (R46). -/
def acquireHandle (own : List Handle) (h : Handle) : List Handle :=
  if h ∈ own then own else own ++ [h]

/-- Remove a handle from `Own`. -/
def releaseHandle (own : List Handle) (h : Handle) : List Handle :=
  own.filter (fun x => x != h)

/-- The level of an output line becomes `U`; SDO, rails and the backlight have none (R13, R45). -/
def Levels.release (v : Levels) : Handle → Levels
  | .line l => v.set l .unknown
  | .sdo => v
  | .rail _ => v
  | .bl => v

/-! ### The outside's answers (R7) -/

/-- Whether the k-th fallible call from here succeeds (notes/assumptions/1.md). -/
def Env.answerAt (e : Env) (k : Nat) : Bool :=
  match e.answers[e.calls + k]? with
  | some b => b
  | none => Config.callSucceeds (e.calls + k)

/-- Whether the next fallible call succeeds. -/
def Env.answer (e : Env) : Bool := e.answerAt 0

/-- The level of SDO at the k-th sample from here (notes/assumptions/2.md). -/
def Env.levelAt (e : Env) (k : Nat) : Bool :=
  match e.levels[e.draws + k]? with
  | some b => b
  | none => Config.sdoLevel (e.draws + k)

/-- The level of SDO at the next sample. -/
def Env.level (e : Env) : Bool := e.levelAt 0

/-- One fallible call has been answered. -/
def State.countCall (s : State) : State :=
  { s with env.calls := s.env.calls + 1 }

/-! ### Collaborator calls (R13) -/

/-- Append one event to the trace (R9, R52). -/
def State.emit (s : State) (e : Event) : State :=
  { s with trace := s.trace ++ [e] }

/-- How a call fails: the kind and target of its `Fail` event and the code it raises. `Release` and `Wait` cannot
fail (R13). -/
def Prim.failure : Prim → Option (FailKind × Handle × ErrCode)
  | .acquire h => some (.acquire, h, .resource)
  | .release _ => none
  | .setLine l _ => some (.set, .line l, .line)
  | .getSdo => some (.get, .sdo, .line)
  | .wait _ _ => none
  | .railOn k => some (.rail, .rail k, .rail)
  | .blEnable => some (.backlight, .bl, .backlight)
  | .blSet _ => some (.backlight, .bl, .backlight)

/-- R13's table, the columns for success: the event and the effect of each call. -/
def State.succeed (s : State) : Prim → State
  | .acquire h => { s.emit (.acquire h) with own := acquireHandle s.own h }
  | .release h => { s.emit (.release h) with own := releaseHandle s.own h, lvl := s.lvl.release h }
  | .setLine l v => { s.emit (.line l v) with lvl := s.lvl.set l (Level.ofBool v) }
  | .getSdo => { s.emit (.sample s.env.level) with env.draws := s.env.draws + 1 }
  | .wait n u => s.emit (.wait n u)
  | .railOn k => s.emit (.rail k)
  | .blEnable => s.emit .blEnable
  | .blSet p => s.emit (.blSet p)

/-- What a failed call does to the line levels: `Lvl[l] <- U` for a `SetLine` (R13). -/
def Prim.failedLevels (p : Prim) (v : Levels) : Levels :=
  match p with
  | .setLine l _ => v.set l .unknown
  | .acquire _ => v
  | .release _ => v
  | .getSdo => v
  | .wait _ _ => v
  | .railOn _ => v
  | .blEnable => v
  | .blSet _ => v

/-! ### Errors (R272, R274) -/

/-- `reject(code)`: `ERR <- code` and nothing else; validation has already left `SP` (R272). -/
def State.reject (s : State) (e : ErrCode) : State :=
  { s with status.err := e }

/-- The status after `raise Error(e)` in a command (R274). -/
def Status.raised (st : Status) (e : ErrCode) (cmd : Option Command) : Status :=
  { st with
    err := e
    lineFault := st.lineFault || e == .line
    lc := if cmd = some .attach then .failed else st.lc
    aborted := st.aborted || cmd == some .powerOn }

/-- `raise Error(e)`: the command in progress ends where it is; nothing is undone (R274). -/
def State.raise (s : State) (e : ErrCode) : State :=
  { s with status := s.status.raised e (s.cont.map Cont.cmd), cont := none }

/-- A call that failed: its `Fail` event, the level of a line that could not be set, and the error (R13, R274). -/
def State.failCall (s : State) (p : Prim) (f : FailKind × Handle × ErrCode) : State :=
  State.raise { s.emit (.fail f.1 f.2.1) with lvl := p.failedLevels s.lvl } f.2.2

/-- One collaborator call: the outside answers, and on success the command goes on with `done` (R9, R13). -/
def State.call (s : State) (p : Prim) (done : State → State) : State :=
  match p.failure with
  | none => done (s.succeed p)
  | some f => if s.env.answer then done (s.countCall.succeed p) else s.countCall.failCall p f

/-! ### Commands (R230) -/

/-- A host write while `BUSY` = 1: nothing but `BUSY_VIOL` (R232). -/
def State.markBusyViol (s : State) : State :=
  { s with status.busyViol := true }

/-- A command is accepted: `BUSY <- 1`, `ERR <- OK`, and its body is to run (R230). The continuation keeps the `ERR` from
before it (R232). -/
def State.accept (s : State) (cmd : Command) (body : List Op) : State :=
  { s with status.err := .ok, cont := some ⟨cmd, none, body, none, s.status.err⟩ }

/-- The lifecycle after a command completes: ATTACH ends Attached and DETACH Released (R233, R234). -/
def Command.lifecycle (cmd : Command) (lc : Lifecycle) : Lifecycle :=
  match cmd with
  | .attach => .attached
  | .detach => .released
  | .xferW9 | .xferR16 | .regWrite | .regRead | .pktSend | .powerOn => lc

/-- `complete`: `BUSY <- 0`; `ERR` stays OK (R230). -/
def State.complete (s : State) (cmd : Command) : State :=
  { s with status.lc := cmd.lifecycle s.status.lc, cont := none }

/-- The order of acceptance checks 2 and 3 of a host write to `CMD`, and the busy rule before them (R230, R232,
R275). -/
def State.command (s : State) (stateOk paramOk : Bool) (body : Host.Outcome State Fault Refusal) :
    Host.Outcome State Fault Refusal :=
  if s.busy then .next s.markBusyViol
  else if stateOk then
    if paramOk then body else .next (s.reject .param)
  else .next (s.reject .state)

/-- The continuation a script or wire instruction runs in: a command in progress, between transfers (R9, R148). -/
def State.inCommand (s : State) (k : Cont → State) : Host.Outcome State Fault Refusal :=
  match s.cont with
  | none => .fault .noCommand
  | some c =>
    match c.xfer with
    | some _ => .fault .transferInProgress
    | none => .next (k c)

/-- The state after a platform reset: the reset state, with the outside, its pending actions and the parameters
as they were (R300; notes/assumptions/14.md). -/
def State.platformReset (s : State) : State :=
  { State.reset with cfg := s.cfg, host := s.host, reads := s.reads, env := s.env, epoch := s.epoch + 1 }

end Sys2Proof.Machine
end

