-- ==== Sys2Proof/Machine/Operands.lean ====
section
/-! DEFINITION. Operands: the host window's registers (10_state.md), the operand bits each command reads (R110, R111),
buffer operands, and the framer's sequences of wire words (41_framing.md). -/

namespace Sys2Proof.Machine

/-! ### The host window (R31) -/

/-- The registers of the window (R31). -/
inductive HostReg where
  | cmd
  | status
  | arg0
  | arg1
  | rdata
  | rraw
  | bright
  | nrails
  | tEn
  | tRstLo
  | tRstHi
  | ph1
  | ph2
  | ph3
  | sp
  deriving DecidableEq, Repr

/-- What an offset of the window names (R31). -/
inductive Target where
  | reg (r : HostReg)
  | buffer
  | reserved
  deriving DecidableEq, Repr

/-- The offsets of `PKTBUF` and of `SCRIPT` (R31, R47, R48). -/
def bufferOffset (off : Nat) : Bool :=
  (decide (0x100 ≤ off) && decide (off < 0x200)) || (decide (0x1000 ≤ off) && decide (off < 0x2000))

/-- R31's map. -/
def windowTarget (off : Nat) : Target :=
  if bufferOffset off then .buffer
  else
    match off with
    | 0x000 => .reg .cmd
    | 0x004 => .reg .status
    | 0x008 => .reg .arg0
    | 0x00C => .reg .arg1
    | 0x010 => .reg .rdata
    | 0x014 => .reg .rraw
    | 0x018 => .reg .bright
    | 0x01C => .reg .nrails
    | 0x020 => .reg .tEn
    | 0x024 => .reg .tRstLo
    | 0x028 => .reg .tRstHi
    | 0x02C => .reg .ph1
    | 0x030 => .reg .ph2
    | 0x034 => .reg .ph3
    | 0x038 => .reg .sp
    | _ => .reserved

/-- A host access is served at multiples of 4 only (R74). -/
def alignedOffset (off : Offset) : Bool := off.extractLsb' 0 2 == 0

/-- A delay profile register as a word: `COUNT` [15:0], `UNIT` [16] (R42). -/
def DelayReg.word (r : DelayReg) : Word := (0 : BitVec 15) ++ (flagBit r.unit ++ r.count)

/-- The delay profile register a word writes (R42). -/
def DelayReg.ofWord (d : Word) : DelayReg := ⟨d.extractLsb' 0 16, d.getLsbD 16⟩

/-- What `BRIGHT` holds after a write of d: the whole word decides (R40). -/
def brightOf (d : Word) : BitVec 7 :=
  if d.toNat ≤ Config.brightMax then d.extractLsb' 0 7 else 100

/-- What a host read of a register returns; reserved bits read 0 (R32 to R44). -/
def State.readReg (s : State) : HostReg → Word
  | .cmd => 0
  | .status => s.statusWord
  | .arg0 => s.arg0.setWidth 32
  | .arg1 => s.arg1.setWidth 32
  | .rdata => s.rdata.setWidth 32
  | .rraw => s.rraw.setWidth 32
  | .bright => s.bright.setWidth 32
  | .nrails => s.nrails.setWidth 32
  | .tEn => s.tEn.word
  | .tRstLo => s.tRstLo.word
  | .tRstHi => s.tRstHi.word
  | .ph1 => s.ph1.setWidth 32
  | .ph2 => s.ph2.setWidth 32
  | .ph3 => s.ph3.setWidth 32
  | .sp => s.sp.setWidth 32

/-- The effect of a host write to a register other than `CMD`, while idle (R33 to R43). A write to `CMD` is a
command (R230) and has no effect of its own. -/
def State.writeReg (s : State) (d : Word) : HostReg → State
  | .cmd => s
  | .status => s
  | .arg0 => { s with arg0 := d.extractLsb' 0 16 }
  | .arg1 => { s with arg1 := d.extractLsb' 0 16 }
  | .rdata => s
  | .rraw => s
  | .bright => { s with bright := brightOf d }
  | .nrails => if s.status.lc = .detached then { s with nrails := d.extractLsb' 0 3 } else s
  | .tEn => { s with tEn := DelayReg.ofWord d }
  | .tRstLo => { s with tRstLo := DelayReg.ofWord d }
  | .tRstHi => { s with tRstHi := DelayReg.ofWord d }
  | .ph1 => { s with ph1 := d.extractLsb' 0 16 }
  | .ph2 => { s with ph2 := d.extractLsb' 0 16 }
  | .ph3 => { s with ph3 := d.extractLsb' 0 16 }
  | .sp => s

/-- Four bytes of a buffer as a word, little-endian (R72). -/
def State.bufferWord (s : State) (off : Nat) : Word :=
  s.byteAt (off + 3) ++ (s.byteAt (off + 2) ++ (s.byteAt (off + 1) ++ s.byteAt off))

/-- What a host read at an aligned offset returns (R231). It has no side effect (R76). -/
def State.hostRead (s : State) (off : Offset) : Word :=
  match windowTarget off.toNat with
  | .reg r => s.readReg r
  | .buffer => s.bufferWord off.toNat
  | .reserved => 0

/-- The effect of a host write at an aligned offset other than `CMD` (R231, R232). -/
def State.hostWrite (s : State) (off : Offset) (d : Word) : State :=
  if s.busy then s.markBusyViol
  else
    match windowTarget off.toNat with
    | .reg r => s.writeReg d r
    | .buffer => { s with mem := Mem.writeWord s.mem off.toNat d }
    | .reserved => s

/-! ### Operands of host commands (R110, R111) -/

/-- `ARG0[8:0]`, the wire word of XFER_W9 (R235). -/
def State.argWord (s : State) : Word9 := s.arg0.extractLsb' 0 9

/-- `ARG0[7:0]`, the register id of REG_WRITE and REG_READ (R237, R238). -/
def State.argId (s : State) : Byte := s.arg0.extractLsb' 0 8

/-- Bytes a, a+1, … of a buffer, or the first of their offsets that was never written (R49). -/
def Mem.readMany (m : Mem) : Nat → Nat → Except Nat (List Byte)
  | 0, _ => .ok []
  | n + 1, a =>
    match Mem.read m a with
    | none => .error a
    | some b =>
      match Mem.readMany m n (a + 1) with
      | .ok bs => .ok (b :: bs)
      | .error x => .error x

/-! ### Script bytes (R120, R121) -/

/-- Script byte a, if it was written (R49). -/
def scriptByte (m : Mem) (a : Nat) : Option Byte := Mem.read m (Config.scriptBase + a)

/-- The script's bytes from an offset on, at most n of them and none from `SCRIPT_BYTES` on. -/
def State.scriptFrom (s : State) : Nat → Nat → List Byte
  | 0, _ => []
  | n + 1, a =>
    if a < Config.scriptBytes then s.byteAt (Config.scriptBase + a) :: State.scriptFrom s n (a + 1) else []

/-! ### Delays and rails (R14, R41, R42) -/

/-- `Delay(count, unit)`: nothing when the count is 0 (R14). -/
def delayOps (count : Half) (u : TimeUnit) : List Op :=
  if count = 0 then [] else [.prim (.wait count.toNat u)]

/-- The delay of a profile register (R207, R209). -/
def DelayReg.ops (r : DelayReg) : List Op :=
  delayOps r.count (if r.unit then .us else .ms)

/-- Rails 0 to `NRAILS`−1 (R41). -/
def railsOf (n : BitVec 3) : List (Fin 7) :=
  [0, 1, 2, 3, 4, 5, 6].take n.toNat

/-! ### The framer's sequences (41_framing.md) -/

/-- `WriteRegister(id, value)`: the id, then the low byte, then the high byte (R161). -/
def writeRegister (id : Byte) (value : Half) : List Op :=
  [.frame .cmd id, .frame .data (lowByte value), .frame .data (highByte value)]

/-- `ReadRegister(id)`: the five words of the handshake and the read transfer (R162). -/
def readRegister (p : Params) (id : Byte) : List Op :=
  [.frame .cmd p.regReadReq, .frame .data p.codeReadAck, .frame .data 0x00, .frame .cmd id,
    .frame .cmd p.codeReadAck, .read16]

/-- `SendCommandPacket(p, n)`: the length announcement, the drop word, the payload (R163). -/
def sendCommandPacket (p : Params) (bytes : List Byte) : List Op :=
  writeRegister p.regPktLen (BitVec.ofNat 16 bytes.length) ++ .frame .cmd p.regPktDrop :: bytes.map (.frame .dsi)

end Sys2Proof.Machine
end

