-- ==== Sys2Proof/Machine/Validation.lean ====
section
/-! DEFINITION. Step S0: the validation of the three phases (42_sequencer.md R195 to R197, R206). -/

namespace Sys2Proof.Machine

/-- What validation finds. -/
inductive Verdict where
  /-- The phase is legal and its `END` is at this offset. -/
  | ok (pc : Nat)
  /-- `reject(code)`, with `pc` at the offending instruction or offset (R195). -/
  | reject (e : ErrCode) (pc : Nat)
  /-- The walk reads this script byte, which was never written (R49). -/
  | unwritten (a : Nat)
  deriving DecidableEq, Repr

/-- R195's loop, from `pc` with `latch_seen`. The walk ends within `SCRIPT_BYTES` + 1 rounds, because `pc` rises at
each; the fuel counts them. -/
def validateFrom (p : Params) (m : Mem) (ph : Phase) : Nat → Nat → Bool → Verdict
  | 0, pc, _ => .reject .script pc
  | fuel + 1, pc, latch =>
    if Config.scriptBytes ≤ pc then .reject .script pc
    else
      match scriptByte m pc with
      | none => .unwritten pc
      | some op =>
        match op.toNat with
        | 0x00 => .ok pc
        | 0x01 =>
          if Config.scriptBytes ≤ pc + 3 then .reject .script pc
          else
            match scriptByte m (pc + 1) with
            | none => .unwritten (pc + 1)
            | some id =>
              if id = p.regPllCfg ∧ (latch || id == p.regPllCtrl) = true then .reject .order pc
              else validateFrom p m ph fuel (pc + 4) (latch || id == p.regPllCtrl)
        | 0x02 =>
          if ph ≠ .two then .reject .script pc
          else if Config.scriptBytes ≤ pc + 1 then .reject .script pc
          else
            match scriptByte m (pc + 1) with
            | none => .unwritten (pc + 1)
            | some n =>
              if n = 0 then .reject .script pc
              else if Config.scriptBytes ≤ pc + 1 + n.toNat then .reject .script pc
              else validateFrom p m ph fuel (pc + 2 + n.toNat) latch
        | 0x03 =>
          if Config.scriptBytes ≤ pc + 2 then .reject .script pc
          else validateFrom p m ph fuel (pc + 3) latch
        | 0x04 =>
          if Config.scriptBytes ≤ pc + 2 then .reject .script pc
          else validateFrom p m ph fuel (pc + 3) latch
        | _ => .reject .script pc

/-- `Validate(ph, ptr)` (R195). -/
def validate (p : Params) (m : Mem) (ph : Phase) (ptr : Half) : Verdict :=
  validateFrom p m ph (Config.scriptBytes + 1) ptr.toNat false

/-- Step S0: phases 1, 2 and 3 in turn; the first failure stops it (R206, R275). -/
def State.validateAll (s : State) : Verdict :=
  match validate s.cfg s.mem .one s.ph1 with
  | .ok _ =>
    match validate s.cfg s.mem .two s.ph2 with
    | .ok _ => validate s.cfg s.mem .three s.ph3
    | .reject e pc => .reject e pc
    | .unwritten a => .unwritten a
  | .reject e pc => .reject e pc
  | .unwritten a => .unwritten a

/-- The effect of step S0 as the last acceptance check (R230, R272): `SP` follows the walk (R35;
notes/assumptions/10.md), a failure rejects the command, and `accepted` goes on otherwise. -/
def State.afterValidation (s : State) (accepted : State → State) : Host.Outcome State Fault Refusal :=
  match s.validateAll with
  | .ok pc => .next (accepted { s with sp := BitVec.ofNat 16 pc })
  | .reject e pc => .next (State.reject { s with sp := BitVec.ofNat 16 pc } e)
  | .unwritten a => .fault (.unwrittenBuffer (Config.scriptBase + a))

end Sys2Proof.Machine
end

