-- ==== Sys2Proof/Machine/HostCommands.lean ====
section
/-! DEFINITION. The meanings of the host commands: what a host write of each code to `CMD` does (43_host_commands.md).
An accepted command leaves its body, the statements of its rule's pseudocode, in the continuation (R51); the
controller's steps run them one collaborator call at a time (R9). Operands are read at acceptance (R79, R111). -/

namespace Sys2Proof.Machine

/-- The body of ATTACH: acquire every handle, then drive the bus lines idle (R233). -/
def attachBody (nrails : BitVec 3) : List Op :=
  ([Handle.line .cs, .line .sck, .line .sdi, .sdo, .line .en, .line .rst].map fun h => Op.prim (.acquire h)) ++
    (railsOf nrails).map (fun k => Op.prim (.acquire (.rail k))) ++
    [.prim (.acquire .bl), .prim (.setLine .cs true), .prim (.setLine .sck true), .prim (.setLine .sdi false)]

/-- ATTACH (R233): `LC` = Detached, and `NRAILS` from 1 to 7. -/
def execAttach (s : State) : Host.Outcome State Fault Refusal :=
  s.command (s.status.lc == .detached) (s.nrails != 0) (.next (s.accept .attach (attachBody s.nrails)))

/-- The body of DETACH: release every handle in `Own`, in ATTACH order (R234). -/
def detachBody (own : List Handle) : List Op :=
  (allHandles.filter (fun h => decide (h ∈ own))).map fun h => Op.prim (.release h)

/-- DETACH (R234): `LC` = Attached. -/
def execDetach (s : State) : Host.Outcome State Fault Refusal :=
  s.command (s.status.lc == .attached) true (.next (s.accept .detach (detachBody s.own)))

/-- XFER_W9 (R235): one raw write transfer of `ARG0[8:0]`. -/
def execXferW9 (s : State) : Host.Outcome State Fault Refusal :=
  s.command s.transferAllowed true (.next (s.accept .xferW9 [.w9 s.argWord]))

/-- XFER_R16 (R236): one raw read transfer. -/
def execXferR16 (s : State) : Host.Outcome State Fault Refusal :=
  s.command s.transferAllowed true (.next (s.accept .xferR16 [.read16]))

/-- REG_WRITE (R237): `WriteRegister(ARG0[7:0], ARG1)`. -/
def execRegWrite (s : State) : Host.Outcome State Fault Refusal :=
  s.command s.transferAllowed true (.next (s.accept .regWrite (writeRegister s.argId s.arg1)))

/-- REG_READ (R238): `ReadRegister(ARG0[7:0])`. -/
def execRegRead (s : State) : Host.Outcome State Fault Refusal :=
  s.command s.transferAllowed true (.next (s.accept .regRead (readRegister s.cfg s.argId)))

/-- The operand condition of PKT_SEND: 1 ≤ `ARG0` ≤ `PKT_BUF_BYTES` (R230). -/
def State.packetCountOk (s : State) : Bool :=
  decide (1 ≤ s.arg0.toNat) && decide (s.arg0.toNat ≤ Config.pktBufBytes)

/-- PKT_SEND (R239): a packet of the first `ARG0` bytes of `PKTBUF`; the first of them never written is the fault
`UNWRITTEN_BUFFER` (R49). -/
def execPktSend (s : State) : Host.Outcome State Fault Refusal :=
  s.command s.transferAllowed s.packetCountOk
    (match Mem.readMany s.mem s.arg0.toNat Config.pktBufBase with
    | .ok bytes => .next (s.accept .pktSend (sendCommandPacket s.cfg bytes))
    | .error off => .fault (.unwrittenBuffer off))

/-- The body of POWER_ON: steps S1 to S6 (R207 to R212). -/
def powerOnBody (s : State) : List Op :=
  .prim (.setLine .en true) :: (s.tEn.ops ++ .setPState .enableAsserted ::
    ((railsOf s.nrails).map (fun k => Op.prim (.railOn k)) ++ .setPState .regulatorsOn ::
      .prim (.setLine .rst false) :: (s.tRstLo.ops ++ .setPState .resetAsserted ::
        .prim (.setLine .rst true) :: (s.tRstHi.ops ++ [.setPState .resetReleased,
          .runPhase .one s.ph1, .setPState .bridgeConfigured,
          .runPhase .two s.ph2, .setPState .panelScripted,
          .runPhase .three s.ph3, .prim .blEnable, .prim (.blSet s.bright), .setPState .displayOn]))))

/-- POWER_ON (R240): validation (S0) is the last acceptance check, then steps S1 to S6. -/
def execPowerOn (s : State) : Host.Outcome State Fault Refusal :=
  s.command s.powerAllowed true (s.afterValidation fun t => t.accept .powerOn (powerOnBody t))

/-- A reserved host code (R112): rejected with ILLEGAL_CMD before any other check; while busy it is ignored as any
write is (R232). -/
def execReservedHost (_opc : Byte) (s : State) : Host.Outcome State Fault Refusal :=
  if s.busy then .next s.markBusyViol else .next (s.reject .illegalCmd)

end Sys2Proof.Machine
end

