-- ==== Sys2Proof/Machine/Script.lean ====
section
/-! DEFINITION. The meanings of the script instructions (42_sequencer.md R180 to R185). An instruction is run from the
loop of `RunPhase`, whose statement the fetch has taken off the continuation; every instruction but END puts its own
statements there and the loop's statement after them. -/

namespace Sys2Proof.Machine

/-- The statements of an instruction of the given length, then the next round of `RunPhase` (R180). -/
def State.expand (s : State) (stmts : List Op) (length : Nat) : Host.Outcome State Fault Refusal :=
  s.inCommand fun c =>
    { s with cont := some { c with ops := stmts ++ .advance length :: .script :: c.ops } }

/-- END (R181): return from `RunPhase`; `pc` keeps the offset of the END. -/
def execEndPhase (s : State) : Host.Outcome State Fault Refusal :=
  s.inCommand fun c => { s with cont := some { c with phase := none } }

/-- REGW (R182): `WriteRegister(id, value)`, then `pc + 4`. -/
def execRegw (id : Byte) (value : Half) (s : State) : Host.Outcome State Fault Refusal :=
  s.expand (writeRegister id value) 4

/-- PKT (R183): `SendCommandPacket(p, n)`, then `pc + 2 + n`. -/
def execPkt (payload : List Byte) (s : State) : Host.Outcome State Fault Refusal :=
  s.expand (sendCommandPacket s.cfg payload) (2 + payload.length)

/-- DELAY_MS (R184): `Delay(count, ms)`, then `pc + 3`. -/
def execDelayMs (count : Half) (s : State) : Host.Outcome State Fault Refusal :=
  s.expand (delayOps count .ms) 3

/-- DELAY_US (R185): `Delay(count, us)`, then `pc + 3`. -/
def execDelayUs (count : Half) (s : State) : Host.Outcome State Fault Refusal :=
  s.expand (delayOps count .us) 3

/-- A reserved script opcode (R123): POWER_ON is rejected with SCRIPT, `SP` at the instruction and no command in
progress (R195, R272; notes/assumptions/11.md). -/
def execReservedScript (_op : Byte) (s : State) : Host.Outcome State Fault Refusal :=
  .next { s.reject .script with cont := none }

end Sys2Proof.Machine
end

