-- ==== Sys2Proof/Machine/Transport.lean ====
section
/-! DEFINITION. The transport unit: the write transfer `W9` and the read transfer `R16`, one collaborator call at a time
(40_transport.md). -/

namespace Sys2Proof.Machine

/-- `swap16(x)` = {x[7:0], x[15:8]} (R11, R142). -/
def swap16 (x : Half) : Half := x.extractLsb' 0 8 ++ x.extractLsb' 8 8

/-- `raw[i] <- b` (R141). -/
def setRawBit (raw : Half) (i : Nat) (b : Bool) : Half :=
  if b then raw ||| (1#16 <<< i) else raw &&& ~~~(1#16 <<< i)

/-- The start of `W9(w)`: bit 8 comes first (R140). -/
def Xfer.startWrite (w : Word9) : Xfer := ⟨.write w, 8, .select⟩

/-- The start of `R16()`: raw is 0 and bit 15 comes first (R141). -/
def Xfer.startRead : Xfer := ⟨.read 0, 15, .select⟩

/-- The collaborator call a transfer makes next (R140, R141). -/
def Xfer.prim (p : Params) (x : Xfer) : Prim :=
  match x.pos with
  | .select => .setLine .cs false
  | .selectWait => .wait p.tCss .tu
  | .clockLow => .setLine .sck false
  | .data =>
    match x.dir with
    | .write w => .setLine .sdi (w.getLsbD x.bit)
    | .read _ => .getSdo
  | .lowHold => .wait Config.tBit .tu
  | .clockHigh => .setLine .sck true
  | .highHold => .wait Config.tBit .tu
  | .frameWait => .wait p.tIfd .tu
  | .deselect => .setLine .cs true

/-- The transfer after its next call has succeeded, b being the level a `GetLine` returned; none when the transfer
is complete. A write sets SDI before the low-phase hold; a read samples SDO after it (R140, R141). -/
def Xfer.after (x : Xfer) (b : Bool) : Option Xfer :=
  match x.pos, x.dir with
  | .select, _ => some { x with pos := .selectWait }
  | .selectWait, _ => some { x with pos := .clockLow }
  | .clockLow, .write _ => some { x with pos := .data }
  | .clockLow, .read _ => some { x with pos := .lowHold }
  | .data, .write _ => some { x with pos := .lowHold }
  | .data, .read raw => some { x with dir := .read (setRawBit raw x.bit b), pos := .clockHigh }
  | .lowHold, .write _ => some { x with pos := .clockHigh }
  | .lowHold, .read _ => some { x with pos := .data }
  | .clockHigh, _ => some { x with pos := .highHold }
  | .highHold, _ =>
    match x.bit with
    | 0 => some { x with pos := .frameWait }
    | i + 1 => some { x with bit := i, pos := .clockLow }
  | .frameWait, _ => some { x with pos := .deselect }
  | .deselect, _ => none

/-- The statements left when a transfer is complete: a read hands its raw bits to the command (R141, R142). -/
def Xfer.opsAfter (x : Xfer) (ops : List Op) : List Op :=
  match x.dir with
  | .write _ => ops
  | .read raw => .returnRead raw :: ops

/-- The continuation after the next call of the transfer x has succeeded. -/
def Cont.afterCall (c : Cont) (x : Xfer) (b : Bool) : Cont :=
  match x.after b with
  | some x' => { c with xfer := some x' }
  | none => { c with xfer := none, ops := x.opsAfter c.ops }

/-- One call of the transfer in progress (R9, R144). -/
def State.transferStep (s : State) (c : Cont) (x : Xfer) : State :=
  s.call (x.prim s.cfg) (fun t => { t with cont := some (c.afterCall x s.env.level) })

/-- A transfer starts (R145, R148). -/
def State.startTransfer (s : State) (x : Xfer) : Host.Outcome State Fault Refusal :=
  s.inCommand (fun c => { s with cont := some { c with xfer := some x } })

end Sys2Proof.Machine
end

