-- ==== Sys2Proof/Machine/Wire.lean ====
section
/-! DEFINITION. The meanings of the wire words and of the read transfer: the transfer starts, and the controller's steps
make its calls one at a time (40_transport.md R140, R141; 41_framing.md R165). -/

namespace Sys2Proof.Machine

/-- `SendFrame(r, b)` = `W9({TAG(r), b})` (R165). -/
def State.sendFrame (s : State) (r : Role) (b : Byte) : Host.Outcome State Fault Refusal :=
  s.startTransfer (Xfer.startWrite (wireWord s.cfg r b))

/-- WIRE_CMD (R140, R165): a register id or a handshake code. -/
def execWireCmd (b : Byte) (s : State) : Host.Outcome State Fault Refusal := s.sendFrame .cmd b

/-- WIRE_DATA (R140, R165): a byte of a register value. -/
def execWireData (b : Byte) (s : State) : Host.Outcome State Fault Refusal := s.sendFrame .data b

/-- WIRE_DSI (R140, R165): a DSI payload byte. -/
def execWireDsi (b : Byte) (s : State) : Host.Outcome State Fault Refusal := s.sendFrame .dsi b

/-- READ16 (R141): a read transfer. -/
def execRead16 (s : State) : Host.Outcome State Fault Refusal := s.startTransfer Xfer.startRead

end Sys2Proof.Machine
end

