-- ==== Sys2Proof/Machine/Dispatch.lean ====
section
/-! DEFINITION. One arm per instruction: each calls its meaning. -/

namespace Sys2Proof.Machine

def exec (i : Instr) (s : State) : Host.Outcome State Fault Refusal :=
  match i with
  | .attach => Sys2Proof.Machine.execAttach s
  | .detach => Sys2Proof.Machine.execDetach s
  | .xferW9 => Sys2Proof.Machine.execXferW9 s
  | .xferR16 => Sys2Proof.Machine.execXferR16 s
  | .regWrite => Sys2Proof.Machine.execRegWrite s
  | .regRead => Sys2Proof.Machine.execRegRead s
  | .pktSend => Sys2Proof.Machine.execPktSend s
  | .powerOn => Sys2Proof.Machine.execPowerOn s
  | .endPhase => Sys2Proof.Machine.execEndPhase s
  | .regw id value => Sys2Proof.Machine.execRegw id value s
  | .pkt payload => Sys2Proof.Machine.execPkt payload s
  | .delayMs count => Sys2Proof.Machine.execDelayMs count s
  | .delayUs count => Sys2Proof.Machine.execDelayUs count s
  | .reservedScript op => Sys2Proof.Machine.execReservedScript op s
  | .reservedHost opc => Sys2Proof.Machine.execReservedHost opc s
  | .wireCmd b => Sys2Proof.Machine.execWireCmd b s
  | .wireData b => Sys2Proof.Machine.execWireData b s
  | .wireDsi b => Sys2Proof.Machine.execWireDsi b s
  | .read16 => Sys2Proof.Machine.execRead16 s

end Sys2Proof.Machine
end

