-- ==== Sys2Proof/Machine/Sequencer.lean ====
section
/-! DEFINITION. What the machine does next: the host's access that is due, or the next statement of the command in
progress (R9, R79, R180). -/

namespace Sys2Proof.Machine

/-- What comes next. -/
inductive Next where
  /-- Run an instruction on a state. -/
  | run (i : Instr) (s : State)
  /-- A step that runs no instruction. -/
  | goto (s : State)
  /-- The machine stops. -/
  | stop (f : Fault)
  /-- The machine has no step. -/
  | bar (r : Refusal)
  deriving DecidableEq, Repr

/-- The script instruction at `pc` in a phase (R180, R122). PKT is legal in phase 2 only (R196). -/
def State.fetchScript (s : State) (ph : Phase) : Except DecodeError Instr :=
  match decodeScript (s.scriptFrom maxScriptLength s.sp.toNat) with
  | .error e => .error e
  | .ok (.pkt payload, _) => if ph = .two then .ok (.pkt payload) else .error .packetOutsidePhaseTwo
  | .ok (i, _) => .ok i

/-- The loop of `RunPhase`: the instruction at `pc` runs with the loop's statement taken off (R180). -/
def State.scriptNext (s : State) (c : Cont) (rest : List Op) : Next :=
  match c.phase with
  | none => .stop .scriptNotValidated
  | some ph =>
    match s.fetchScript ph with
    | .ok i => .run i { s with cont := some { c with ops := rest } }
    | .error _ => .stop .scriptNotValidated

/-- The next statement of a command between transfers. A statement that makes no collaborator call is a step of its
own, without an event (notes/assumptions/4.md). -/
def State.statementNext (s : State) (c : Cont) : Next :=
  match c.ops with
  | [] => .goto (s.complete c.cmd)
  | .prim p :: rest => .goto (s.call p fun t => { t with cont := some { c with ops := rest } })
  | .w9 w :: rest => .goto { s with cont := some { c with ops := rest, xfer := some (Xfer.startWrite w) } }
  | .frame r b :: rest => .run (r.instr b) { s with cont := some { c with ops := rest } }
  | .read16 :: rest => .run .read16 { s with cont := some { c with ops := rest } }
  | .runPhase ph ptr :: rest =>
    .goto { s with sp := ptr, cont := some { c with phase := some ph, ops := .script :: rest } }
  | .script :: rest => s.scriptNext c rest
  | .advance n :: rest =>
    .goto { s with sp := s.sp + BitVec.ofNat 16 n, cont := some { c with ops := rest } }
  | .setPState p :: rest => .goto { s with status.pstate := p, cont := some { c with ops := rest } }
  | .returnRead raw :: _ => .goto (State.complete { s with rdata := swap16 raw, rraw := raw } c.cmd)

/-- The controller's next step. With no command in progress it waits for the host (R9, R301). -/
def State.controllerNext (s : State) : Next :=
  match s.cont with
  | none => .goto s
  | some c =>
    match c.xfer with
    | some x => .goto (s.transferStep c x)
    | none => s.statementNext c

/-- A host action that is due, on the state with the action taken off the list (R74, R131, R132, R230 to R232,
R300). `s` is the state with the action still on the list. -/
def State.hostNext (s : State) (act : HostAct) (rest : List HostSlot) : Next :=
  match act with
  | .write off d =>
    if alignedOffset off then
      if off = 0 then .run (decodeHost d) { s with host := rest }
      else .goto (State.hostWrite { s with host := rest } off d)
    else .bar (.hostBusError off)
  | .read off =>
    if alignedOffset off then .goto { s with host := rest, reads := s.reads ++ [s.hostRead off] }
    else .bar (.hostBusError off)
  | .otherWidth _ off => .bar (.hostBusError off)
  | .poll =>
    if s.busy then s.controllerNext
    else .goto { s with host := rest, reads := s.reads ++ [s.statusWord] }
  | .reset => .goto (State.platformReset { s with host := rest })

/-- What comes next: the host's action if it is due, and else a step of the controller (R9). -/
def State.next (s : State) : Next :=
  match s.host with
  | [] => s.controllerNext
  | ⟨0, act⟩ :: rest => s.hostNext act rest
  | ⟨n + 1, act⟩ :: rest => State.controllerNext { s with host := ⟨n, act⟩ :: rest }

/-! ### Where the next instruction is fetched -/

/-- The host's actions, none of them due before one more step. -/
def yieldSlots : List HostSlot → List HostSlot
  | [] => []
  | sl :: rest => { sl with after := sl.after + 1 } :: rest

/-- Script bytes at an offset. -/
def Mem.writeScript (m : Mem) : Nat → List Byte → Mem
  | _, [] => m
  | a, b :: bs => Mem.writeScript (Mem.write m (Config.scriptBase + a) b) (a + 1) bs

/-- The state whose next step runs the script bytes: they stand at `pc`, and POWER_ON is in phase 2, which allows
every script instruction (R196). -/
def State.placeScript (s : State) (bytes : List Byte) : State :=
  let a := if s.sp.toNat + bytes.length ≤ Config.scriptBytes then s.sp.toNat else 0
  { s with
    sp := BitVec.ofNat 16 a
    mem := Mem.writeScript s.mem a bytes
    cont := some ⟨.powerOn, some .two, [.script], none, s.status.err⟩
    host := yieldSlots s.host }

/-- The state whose next step runs the statement: a command between transfers, with the statement to run. -/
def State.placeStatement (s : State) (cmd : Command) (op : Op) : State :=
  { s with cont := some ⟨cmd, none, [op], none, s.status.err⟩, host := yieldSlots s.host }

/-- The state whose next step runs the instruction, w being the word it was decoded from: a host command is a
write to `CMD` that is due, a script instruction stands at `pc`, a wire word is the next statement of a command. -/
def State.placeInstr (s : State) (i : Instr) (w : Nat) : State :=
  match encode s.cfg i with
  | .hostWrite _ => { s with host := ⟨0, .write 0 (BitVec.ofNat 32 w)⟩ :: s.host }
  | .script bytes => s.placeScript bytes
  | .wire code word =>
    match Role.ofCode code with
    | some r => s.placeStatement .regWrite (.frame r (word.extractLsb' 0 8))
    | none => s
  | .readTransfer => s.placeStatement .xferR16 .read16

end Sys2Proof.Machine
end

