-- ==== Sys2Proof/Machine/Step.lean ====
section
/-! DEFINITION. One step of the machine. -/

namespace Sys2Proof.Machine

/-- What comes of what is next: `exec` runs an instruction. -/
def Next.outcome : Next → Host.Outcome State Fault Refusal
  | .run i t => exec i t
  | .goto t => .next t
  | .stop f => .fault f
  | .bar r => .refused r

/-- One step of the machine (R9). -/
def step (s : State) : Host.Outcome State Fault Refusal := s.next.outcome

/-- The state with a word of the opcode table placed where `step` takes its next instruction
(notes/assumptions/6.md, notes/assumptions/15.md). -/
def State.withFetchWord (s : State) (nbits w : Nat) : State :=
  match decodeTableWord nbits w with
  | some i => s.placeInstr i w
  | none => s

end Sys2Proof.Machine
end

