-- ==== Sys2Proof/Machine/Observation.lean ====
section
/-! DEFINITION. What is observed of a run (R8), the waits it adds up (R8, R143, R316), and the two OPEN parameters, which
are arguments here because no rule of the machine reads them (R10; notes/assumptions/13.md). -/

namespace Sys2Proof.Machine

/-- The host-visible registers of R31's map, in the order of their offsets. -/
def hostRegs : List HostReg :=
  [.cmd, .status, .arg0, .arg1, .rdata, .rraw, .bright, .nrails, .tEn, .tRstLo, .tRstHi, .ph1, .ph2, .ph3, .sp]

/-- The observation of a run that ends in a state: the trace and the values of the host-visible registers (R8). -/
def State.observe (s : State) : List Event × List Word :=
  (s.trace, hostRegs.map s.readReg)

/-- The transport time units an event waits (R8, R143). -/
def Event.tu : Event → Nat
  | .wait n .tu => n
  | .wait _ .us | .wait _ .ms => 0
  | .acquire _ | .release _ | .line _ _ | .sample _ | .rail _ | .blEnable | .blSet _ | .fail _ _ => 0

/-- The transport time units a list of events waits (R143). -/
def traceTU (es : List Event) : Nat := (es.map Event.tu).sum

/-- The least time an event takes, in microseconds, when one transport time unit is `tUnit` microseconds
(`T_UNIT`, OPEN; R316). That the duration is a rational number of microseconds is a DESIGN CHOICE of the model
(notes/assumptions/13.md). -/
def Event.minTime (tUnit : Rat) : Event → Rat
  | .wait n .tu => n * tUnit
  | .wait n .us => n
  | .wait n .ms => n * 1000
  | .acquire _ | .release _ | .line _ _ | .sample _ | .rail _ | .blEnable | .blSet _ | .fail _ _ => 0

/-- The least time a list of events takes, in microseconds (R8, R316). -/
def traceMinTime (tUnit : Rat) (es : List Event) : Rat := (es.map (Event.minTime tUnit)).sum

/-- The window offset of a host address, `BLOCK_BASE` (OPEN) being `base`; the block decodes no other address
(R31, R77). -/
def windowOffset (base addr : Nat) : Option Offset :=
  if base ≤ addr ∧ addr < base + 0x2000 then some (BitVec.ofNat 13 (addr - base)) else none

end Sys2Proof.Machine
end

