-- ==== Sys2Proof/Safety.lean ====
section
/-! DEFINITION. The terms that claims are stated in: runs, the premises of a run, the event lists of the transfers,
and the invariants. -/

namespace Sys2Proof.Machine

/-! ### Runs -/

/-- n steps, stopping at the first fault or refusal. -/
def runSteps : Nat → State → Host.Outcome State Fault Refusal
  | 0, s => .next s
  | n + 1, s =>
    match step s with
    | .next t => runSteps n t
    | .fault f => .fault f
    | .refused r => .refused r

/-- The premise R232 puts on every claim about a run: the host never broke its duty. -/
def State.dutyKept (s : State) : Prop := s.status.busyViol = false

/-- The next n fallible calls succeed. -/
def Env.grants (e : Env) (n : Nat) : Prop := ∀ k, k < n → e.answerAt k = true

/-- The 16 samples from here, the first in bit 15 (R101, R141). -/
def Env.samples (e : Env) (raw : Half) : Prop := ∀ k, k < 16 → raw.getLsbD (15 - k) = e.levelAt k

/-- The host has an action that is due now, and `rest` comes after it. -/
def State.due (s : State) (act : HostAct) (rest : List HostSlot) : Prop := s.host = ⟨0, act⟩ :: rest

/-- A command other than ATTACH and POWER_ON would be accepted (R230). -/
def State.idleAttached (s : State) : Prop := s.cont = none ∧ s.transferAllowed = true

/-! ### The events of the transfers (R140, R141) -/

/-- The events of one bit of a write transfer. -/
def writeBitEvents (v : Bool) : List Event :=
  [.line .sck false, .line .sdi v, .wait 1 .tu, .line .sck true, .wait 1 .tu]

/-- The 49 events of `W9(w)`, bit 8 first (R140). -/
def writeEvents (p : Params) (w : Word9) : List Event :=
  [.line .cs false, .wait p.tCss .tu] ++
    [8, 7, 6, 5, 4, 3, 2, 1, 0].flatMap (fun i => writeBitEvents (w.getLsbD i)) ++
    [.wait p.tIfd .tu, .line .cs true]

/-- The events of one bit of a read transfer. -/
def readBitEvents (b : Bool) : List Event :=
  [.line .sck false, .wait 1 .tu, .sample b, .line .sck true, .wait 1 .tu]

/-- The 84 events of `R16()` with the given raw bits, bit 15 first (R141). -/
def readEvents (p : Params) (raw : Half) : List Event :=
  [.line .cs false, .wait p.tCss .tu] ++
    [15, 14, 13, 12, 11, 10, 9, 8, 7, 6, 5, 4, 3, 2, 1, 0].flatMap (fun i => readBitEvents (raw.getLsbD i)) ++
    [.wait p.tIfd .tu, .line .cs true]

/-- The wire words of a list of roles and bytes (R103). -/
def wordEvents (p : Params) (ws : List (Role × Byte)) : List Event :=
  ws.flatMap fun rb => writeEvents p (wireWord p rb.1 rb.2)

/-- The wire words of a register write (R161). -/
def registerWords (id : Byte) (value : Half) : List (Role × Byte) :=
  [(.cmd, id), (.data, lowByte value), (.data, highByte value)]

/-- The wire words of a register read's handshake (R162). -/
def handshakeWords (p : Params) (id : Byte) : List (Role × Byte) :=
  [(.cmd, p.regReadReq), (.data, p.codeReadAck), (.data, 0x00), (.cmd, id), (.cmd, p.codeReadAck)]

/-- The wire words of a command packet (R163). -/
def packetWords (p : Params) (bytes : List Byte) : List (Role × Byte) :=
  registerWords p.regPktLen (BitVec.ofNat 16 bytes.length) ++ (.cmd, p.regPktDrop) :: bytes.map fun b => (Role.dsi, b)

/-- The bus lines after a completed write transfer: deselected, clock high, SDI at the last bit (R140). -/
def Levels.afterWrite (v : Levels) (w : Word9) : Levels :=
  { v with cs := .one, sck := .one, sdi := Level.ofBool (w.getLsbD 0) }

/-- The bus lines after a completed read transfer: SDI is not driven (R141). -/
def Levels.afterRead (v : Levels) : Levels := { v with cs := .one, sck := .one }

/-- The bus lines after the wire words of a list. -/
def Levels.afterWords (p : Params) (v : Levels) (ws : List (Role × Byte)) : Levels :=
  ws.foldl (fun v rb => v.afterWrite (wireWord p rb.1 rb.2)) v

/-- The outside after n calls. -/
def Env.afterCalls (e : Env) (n : Nat) : Env := { e with calls := e.calls + n }

/-- The state after the wire words of a list have been sent: their events, their last levels, and 29 fallible calls
for each. -/
def State.sent (s : State) (ws : List (Role × Byte)) : State :=
  { s with
    trace := s.trace ++ wordEvents s.cfg ws
    lvl := s.lvl.afterWords s.cfg ws
    env := s.env.afterCalls (29 * ws.length) }

/-- The handles ATTACH acquires, in its order (R233). -/
def handlesOf (nrails : BitVec 3) : List Handle :=
  [.line .cs, .line .sck, .line .sdi, .sdo, .line .en, .line .rst] ++ (railsOf nrails).map .rail ++ [.bl]

/-- The events of a delay (R14). -/
def DelayReg.events (r : DelayReg) : List Event :=
  if r.count = 0 then [] else [.wait r.count.toNat (if r.unit then .us else .ms)]

/-- How many statements, and events, a delay is (R14). -/
def DelayReg.steps (r : DelayReg) : Nat := if r.count = 0 then 0 else 1

/-- The events of steps S1 to S3 of POWER_ON (R207 to R209). -/
def State.preludeEvents (s : State) : List Event :=
  .line .en true :: (s.tEn.events ++ ((railsOf s.nrails).map .rail ++
    .line .rst false :: (s.tRstLo.events ++ .line .rst true :: s.tRstHi.events)))

/-- How many steps S1 to S3 of POWER_ON take: their calls and waits, and four writes of `PSTATE`. -/
def State.preludeSteps (s : State) : Nat :=
  7 + s.nrails.toNat + s.tEn.steps + s.tRstLo.steps + s.tRstHi.steps

/-! ### Script listings -/

/-- The instructions from an offset of the script on, up to its END, as the sequencer fetches them (R180). -/
def State.listing (s : State) : Nat → Nat → List Instr
  | 0, _ => []
  | fuel + 1, a =>
    match decodeScript (s.scriptFrom maxScriptLength a) with
    | .error _ => []
    | .ok (.endPhase, _) => [.endPhase]
    | .ok (.regw id v, _) => .regw id v :: State.listing s fuel (a + 4)
    | .ok (.pkt bs, _) => .pkt bs :: State.listing s fuel (a + 2 + bs.length)
    | .ok (.delayMs n, _) => .delayMs n :: State.listing s fuel (a + 3)
    | .ok (.delayUs n, _) => .delayUs n :: State.listing s fuel (a + 3)
    | .ok (i, _) => [i]

/-- The instructions of a phase that begins at a pointer. -/
def State.phaseListing (s : State) (ptr : Half) : List Instr := s.listing (Config.scriptBytes + 1) ptr.toNat

/-- The instructions of the three phases, in the order POWER_ON runs them (R210 to R212). -/
def State.scriptListing (s : State) : List Instr :=
  s.phaseListing s.ph1 ++ s.phaseListing s.ph2 ++ s.phaseListing s.ph3

/-- The wire words a script instruction sends (R182, R183). -/
def instrWords (p : Params) : Instr → List (Role × Byte)
  | .regw id value => registerWords id value
  | .pkt payload => packetWords p payload
  | .endPhase | .delayMs _ | .delayUs _ | .reservedScript _ => []
  | .attach | .detach | .xferW9 | .xferR16 | .regWrite | .regRead | .pktSend | .powerOn | .reservedHost _ => []
  | .wireCmd _ | .wireData _ | .wireDsi _ | .read16 => []

/-- The wait of a script instruction (R184, R185, R14). -/
def instrWaits : Instr → List Event
  | .delayMs count => if count = 0 then [] else [.wait count.toNat .ms]
  | .delayUs count => if count = 0 then [] else [.wait count.toNat .us]
  | .endPhase | .regw _ _ | .pkt _ | .reservedScript _ => []
  | .attach | .detach | .xferW9 | .xferR16 | .regWrite | .regRead | .pktSend | .powerOn | .reservedHost _ => []
  | .wireCmd _ | .wireData _ | .wireDsi _ | .read16 => []

/-- The events of a script instruction whose line calls succeed (R181 to R185). -/
def instrEvents (p : Params) (i : Instr) : List Event := wordEvents p (instrWords p i) ++ instrWaits i

/-- How many steps a script instruction takes when its line calls succeed: its fetch, 50 for each wire word, its wait,
and, but for END, the advance of pc (notes/assumptions/4.md). -/
def instrSteps (p : Params) (i : Instr) : Nat :=
  (if i = .endPhase then 1 else 2) + 50 * (instrWords p i).length + (instrWaits i).length

/-- How many events an instruction of a script adds to POWER_ON, by R318's formula. -/
def instrEventCount : Instr → Nat
  | .regw _ _ => 147
  | .pkt payload => (4 + payload.length) * 49
  | .delayMs count | .delayUs count => if 0 < count.toNat then 1 else 0
  | .endPhase | .reservedScript _ => 0
  | .attach | .detach | .xferW9 | .xferR16 | .regWrite | .regRead | .pktSend | .powerOn | .reservedHost _ => 0
  | .wireCmd _ | .wireData _ | .wireDsi _ | .read16 => 0

/-- How many bytes a script instruction has (R121). -/
def scriptLengthOf : Instr → Nat
  | .endPhase | .reservedScript _ => 1
  | .regw _ _ => 4
  | .pkt payload => 2 + payload.length
  | .delayMs _ | .delayUs _ => 3
  | .attach | .detach | .xferW9 | .xferR16 | .regWrite | .regRead | .pktSend | .powerOn | .reservedHost _ => 0
  | .wireCmd _ | .wireData _ | .wireDsi _ | .read16 => 0

/-- The offset after the instructions of a list that begins at an offset. -/
def offsetAfter (a : Nat) (is : List Instr) : Nat := a + (is.map scriptLengthOf).sum

/-- The bytes of a script instruction that validation reads (R195). -/
def headOf : Instr → List Byte
  | .endPhase => [0x00]
  | .regw id _ => [0x01, id]
  | .pkt payload => [0x02, BitVec.ofNat 8 payload.length]
  | .delayMs _ => [0x03]
  | .delayUs _ => [0x04]
  | .reservedScript op => [op]
  | .attach | .detach | .xferW9 | .xferR16 | .regWrite | .regRead | .pktSend | .powerOn | .reservedHost _ => []
  | .wireCmd _ | .wireData _ | .wireDsi _ | .read16 => []

/-- An instruction that may stand before the END of a phase (R123, R196). -/
def inBody (ph : Phase) : Instr → Prop
  | .regw _ _ | .delayMs _ | .delayUs _ => True
  | .pkt payload => ph = .two ∧ 1 ≤ payload.length ∧ payload.length ≤ 255
  | .endPhase | .reservedScript _ => False
  | .attach | .detach | .xferW9 | .xferR16 | .regWrite | .regRead | .pktSend | .powerOn | .reservedHost _ => False
  | .wireCmd _ | .wireData _ | .wireDsi _ | .read16 => False

/-- The instructions of a list may stand in the phase and lie in the script one after another from an offset on, inside
it, with the bytes that validation reads written. -/
def State.laidOut (s : State) (ph : Phase) : Nat → List Instr → Prop
  | _, [] => True
  | a, i :: is =>
    inBody ph i ∧ a + scriptLengthOf i ≤ Config.scriptBytes ∧
      (∀ k (h : k < (headOf i).length), scriptByte s.mem (a + k) = some (headOf i)[k]) ∧
      State.laidOut s ph (a + scriptLengthOf i) is

/-- No register write to the PLL configuration comes after one to the PLL latch (R197). -/
def pllOrdered (p : Params) (is : List Instr) : Prop :=
  ∀ before after v, is = before ++ .regw p.regPllCtrl v :: after → ∀ u, .regw p.regPllCfg u ∉ after

/-! ### Invariants -/

/-- A phase that begins at a pointer is legal up to the instructions of a list: they are laid out there and keep the PLL
order. The two PLL ids differ, as R10 requires. -/
structure State.legalUpTo (s : State) (ph : Phase) (ptr : Half) (is : List Instr) : Prop where
  laidOut : s.laidOut ph ptr.toNat is
  ordered : pllOrdered s.cfg is
  idsDiffer : s.cfg.regPllCfg ≠ s.cfg.regPllCtrl

/-- Every listed offset lies in `PKTBUF` or in `SCRIPT` (R47, R48). -/
def Mem.inBuffers (m : Mem) : Bool := m.all fun c => bufferOffset c.1

/-- The buffers' bytes are in canonical form and lie in the buffers. -/
def State.buffersInv (s : State) : Prop := Mem.wf s.mem = true ∧ Mem.inBuffers s.mem = true

/-- `BRIGHT` holds a legal value (R40). -/
def State.brightInv (s : State) : Prop := s.bright.toNat ≤ 100

/-- The power states that a list of statements still writes. -/
def pstatesOf (ops : List Op) : List PowerState :=
  ops.filterMap fun o =>
    match o with
    | .setPState p => some p
    | .prim _ | .w9 _ | .frame _ _ | .read16 | .runPhase _ _ | .script | .advance _ | .returnRead _ => none

/-- The command in progress still writes exactly the later power states, in order, if it is POWER_ON, and none
otherwise (R54, R205). -/
def State.powerInv (s : State) : Prop :=
  ∀ c, s.cont = some c → pstatesOf c.ops = if c.cmd = .powerOn then s.status.pstate.later else []

/-- The lifecycle while a command is in progress: ATTACH runs Detached, every other command Attached (R230). -/
def State.lifecycleInv (s : State) : Prop :=
  ∀ c, s.cont = some c → s.status.lc = if c.cmd = .attach then .detached else .attached

/-- The levels of select and clock that a transfer has reached at its position (R140, R141). -/
def Xfer.linesOk (x : Xfer) (v : Levels) : Prop :=
  match x.pos with
  | .select => v.cs = .one ∧ v.sck = .one
  | .selectWait => v.cs = .zero ∧ v.sck = .one
  | .clockLow => v.cs = .zero ∧ v.sck = .one
  | .data => v.cs = .zero ∧ v.sck = .zero
  | .lowHold => v.cs = .zero ∧ v.sck = .zero
  | .clockHigh => v.cs = .zero ∧ v.sck = .zero
  | .highHold => v.cs = .zero ∧ v.sck = .one
  | .frameWait => v.cs = .zero ∧ v.sck = .one
  | .deselect => v.cs = .zero ∧ v.sck = .one

/-- A statement that ATTACH's body may hold (R233). -/
def Op.inAttach : Op → Bool
  | .prim (.acquire _) | .prim (.setLine _ _) => true
  | .prim (.release _) | .prim .getSdo | .prim (.wait _ _) | .prim (.railOn _) | .prim .blEnable
  | .prim (.blSet _) => false
  | .w9 _ | .frame _ _ | .read16 | .runPhase _ _ | .script | .advance _ | .setPState _ | .returnRead _ => false

/-- A statement that DETACH's body may hold (R234). -/
def Op.inDetach : Op → Bool
  | .prim (.release _) => true
  | .prim (.acquire _) | .prim (.setLine _ _) | .prim .getSdo | .prim (.wait _ _) | .prim (.railOn _)
  | .prim .blEnable | .prim (.blSet _) => false
  | .w9 _ | .frame _ _ | .read16 | .runPhase _ _ | .script | .advance _ | .setPState _ | .returnRead _ => false

/-- A statement that any other command's body may hold: outside its transfers it drives no bus line and neither
acquires nor releases a handle (R207 to R212, R235 to R239). -/
def Op.inTransfer : Op → Bool
  | .prim (.setLine .en _) | .prim (.setLine .rst _) => true
  | .prim (.setLine .cs _) | .prim (.setLine .sck _) | .prim (.setLine .sdi _) => false
  | .prim (.acquire _) | .prim (.release _) | .prim .getSdo => false
  | .prim (.wait _ _) | .prim (.railOn _) | .prim .blEnable | .prim (.blSet _) => true
  | .w9 _ | .frame _ _ | .read16 | .runPhase _ _ | .script | .advance _ | .setPState _ | .returnRead _ => true

/-- The levels after the `SetLine` statements of a list have succeeded. -/
def Levels.afterOps (v : Levels) : List Op → Levels
  | [] => v
  | .prim (.setLine l x) :: ops => Levels.afterOps (v.set l (Level.ofBool x)) ops
  | _ :: ops => Levels.afterOps v ops

/-- Select is deasserted and the clock idles high between transfers (R145): the attached block with no line fault
holds both lines at 1 when idle; ATTACH will leave them so; every other command keeps them so between its transfers
and drives them as R140 and R141 say inside one. -/
def State.busInv (s : State) : Prop :=
  match s.cont with
  | none =>
    s.status.lc = .attached → s.status.lineFault = false → s.lvl.cs = .one ∧ s.lvl.sck = .one
  | some c =>
    match c.cmd with
    | .attach =>
      c.xfer = none ∧ c.ops.all Op.inAttach = true ∧
        (s.lvl.afterOps c.ops).cs = .one ∧ (s.lvl.afterOps c.ops).sck = .one
    | .detach => c.xfer = none ∧ c.ops.all Op.inDetach = true
    | .xferW9 | .xferR16 | .regWrite | .regRead | .pktSend | .powerOn =>
      c.ops.all Op.inTransfer = true ∧
        match c.xfer with
        | none => s.lvl.cs = .one ∧ s.lvl.sck = .one
        | some x => x.linesOk s.lvl

/-- Validation passes a phase from an offset on. -/
def State.phasePasses (s : State) (ph : Phase) (a : Half) : Prop :=
  ∃ fuel latch pc, validateFrom s.cfg s.mem ph fuel a.toNat latch = .ok pc

/-- Wherever a list of statements fetches from the script, validation passes from there on: `ph` is the phase and `a` the
value of pc when the list begins. -/
def State.fetchesPass (s : State) : Option Phase → Half → List Op → Prop
  | _, _, [] => True
  | ph, a, .advance n :: ops => State.fetchesPass s ph (a + BitVec.ofNat 16 n) ops
  | ph, a, .script :: ops => (∃ p, ph = some p ∧ s.phasePasses p a) ∧ State.fetchesPass s none a ops
  | _, a, .runPhase p ptr :: ops => s.phasePasses p ptr ∧ State.fetchesPass s none a ops
  | ph, a, .prim _ :: ops | ph, a, .w9 _ :: ops | ph, a, .frame _ _ :: ops | ph, a, .read16 :: ops
  | ph, a, .setPState _ :: ops | ph, a, .returnRead _ :: ops => State.fetchesPass s ph a ops

/-- Every script instruction that the command in progress has still to fetch has passed validation (R123). -/
def State.scriptInv (s : State) : Prop := ∀ c, s.cont = some c → s.fetchesPass c.phase s.sp c.ops

end Sys2Proof.Machine
end

