-- ==== Sys2Proof/Certificates/Slice0/Obligations.lean ====
section
/-! DEFINITION. The statements for the provers. Each docstring names the rule of spec/ it comes from. -/

section
open Sys2Proof Sys2Proof.Machine

/-! ### Reset and the host window -/

/-- R301: the value of every piece of state after reset; the block then runs nothing and waits: whatever the host will
do later, until an action of it is due a step changes nothing of the block. -/
def Obligations.ResetLeavesTheSpecifiedState : Prop :=
  State.reset.status = ⟨.detached, .unpowered, false, .ok, false, false⟩ ∧ State.reset.busy = false ∧
    State.reset.statusWord = 0 ∧ State.reset.readReg .cmd = 0 ∧
    State.reset.arg0 = 0 ∧ State.reset.arg1 = 0 ∧ State.reset.rdata = 0 ∧ State.reset.rraw = 0 ∧
    State.reset.bright = 100 ∧ State.reset.nrails = 1 ∧
    State.reset.tEn = ⟨0, false⟩ ∧ State.reset.tRstLo = ⟨0, false⟩ ∧ State.reset.tRstHi = ⟨0, false⟩ ∧
    State.reset.ph1 = 0 ∧ State.reset.ph2 = 0 ∧ State.reset.ph3 = 0 ∧ State.reset.sp = 0 ∧
    (∀ off : Offset, windowTarget off.toNat = .reserved → State.reset.hostRead off = 0) ∧
    (∀ r ∈ hostRegs, State.reset.readReg r =
      if r = .bright then 100 else if r = .nrails then 1 else 0) ∧
    (∀ l : Line, State.reset.lvl.get l = .unknown) ∧ State.reset.own = [] ∧
    (∀ a, Mem.read State.reset.mem a = none) ∧ State.reset.cont = none ∧ State.reset.trace = [] ∧
    (∀ hs : List HostSlot, (∀ act rest, hs ≠ ⟨0, act⟩ :: rest) →
      ∃ hs', step { State.reset with host := hs } = .next { State.reset with host := hs' })

/-- R300: a platform reset in any state, a command in progress or not, gives the reset state with an empty trace and no
event. The outside, the parameters and what the host has read are the model's own and stay (the model's choice:
notes/assumptions/14.md). -/
def Obligations.PlatformResetFromAnyState : Prop :=
  ∀ s rest, s.due .reset rest →
    step s = .next { State.reset with
      cfg := s.cfg, host := rest, reads := s.reads, env := s.env, epoch := s.epoch + 1 }

/-- R232: a host write while a command is in progress, to any offset (`CMD` with any code, a register, a buffer, a
reserved offset), changes nothing and sets BUSY_VIOL. Whatever step leaves a command in progress, the one that accepts it
or a later one, RDATA, RRAW and ERR read as before that step, so they read as before the command until it completes. -/
def Obligations.BusyWritesAreIgnoredAndResultsReadAsBefore : Prop :=
  (∀ s off d rest, s.busy = true → alignedOffset off = true → s.due (.write off d) rest →
    step s = .next { s with host := rest, status.busyViol := true }) ∧
  (∀ s t : State, step s = .next t → t.busy = true →
    t.errRead = s.errRead ∧ t.statusWord.extractLsb' 8 4 = s.statusWord.extractLsb' 8 4 ∧
      t.hostRead 0x010 = s.hostRead 0x010 ∧ t.hostRead 0x014 = s.hostRead 0x014)

/-- R231, R76: a host read at any time returns the current value and changes nothing; `reads` is the model's own list of
what the host has read (notes/assumptions/5.md). R32, R35, R38, R39: what a read of CMD, RDATA, RRAW and SP returns, in
every state. -/
def Obligations.HostReadHasNoSideEffect : Prop :=
  (∀ s off rest, alignedOffset off = true → s.due (.read off) rest →
    step s = .next { s with host := rest, reads := s.reads ++ [s.hostRead off] }) ∧
  (∀ s : State, s.hostRead 0x000 = 0 ∧ s.hostRead 0x010 = s.rdata.setWidth 32 ∧
    s.hostRead 0x014 = s.rraw.setWidth 32 ∧ s.hostRead 0x038 = s.sp.setWidth 32)

/-- R74: an access that is misaligned or of another width has no step. -/
def Obligations.MisalignedOrNarrowAccessIsRefused : Prop :=
  ∀ s off rest,
    (∀ d, alignedOffset off = false → s.due (.write off d) rest → step s = .refused (.hostBusError off)) ∧
    (alignedOffset off = false → s.due (.read off) rest → step s = .refused (.hostBusError off)) ∧
    (∀ n, s.due (.otherWidth n off) rest → step s = .refused (.hostBusError off))

/-- R44, R33, R35, R38, R39: reserved offsets (0x03C–0x0FC and 0x200–0xFFC) read 0 and ignore writes, and an idle write
to a read-only register (STATUS, RDATA, RRAW, SP) is ignored. -/
def Obligations.ReservedAndReadOnlyOffsetsIgnoreWrites : Prop :=
  ∀ (s : State) (off : Offset), alignedOffset off = true →
    (((0x03C ≤ off.toNat ∧ off.toNat ≤ 0x0FC) ∨ (0x200 ≤ off.toNat ∧ off.toNat ≤ 0xFFC)) → s.hostRead off = 0) ∧
    ((0x03C ≤ off.toNat ∧ off.toNat ≤ 0x0FC) ∨ (0x200 ≤ off.toNat ∧ off.toNat ≤ 0xFFC) ∨
        off ∈ [(0x004 : Offset), 0x010, 0x014, 0x038] →
      ∀ d rest, s.busy = false → s.due (.write off d) rest → step s = .next { s with host := rest })

/-- R36, R37, R42, R43: what an idle write stores in each plain register, and what a read then returns: the defined
bits of the word, reserved bits 0. -/
def Obligations.RegisterWritesStoreTheDefinedBits : Prop :=
  ∀ s d rest, s.busy = false →
    (s.due (.write 0x008 d) rest → ∃ t, step s = .next t ∧
      t = { s with host := rest, arg0 := d.extractLsb' 0 16 } ∧ t.hostRead 0x008 = d &&& 0xFFFF) ∧
    (s.due (.write 0x00C d) rest → ∃ t, step s = .next t ∧
      t = { s with host := rest, arg1 := d.extractLsb' 0 16 } ∧ t.hostRead 0x00C = d &&& 0xFFFF) ∧
    (s.due (.write 0x020 d) rest → ∃ t, step s = .next t ∧
      t = { s with host := rest, tEn := ⟨d.extractLsb' 0 16, d.getLsbD 16⟩ } ∧ t.hostRead 0x020 = d &&& 0x1FFFF) ∧
    (s.due (.write 0x024 d) rest → ∃ t, step s = .next t ∧
      t = { s with host := rest, tRstLo := ⟨d.extractLsb' 0 16, d.getLsbD 16⟩ } ∧
        t.hostRead 0x024 = d &&& 0x1FFFF) ∧
    (s.due (.write 0x028 d) rest → ∃ t, step s = .next t ∧
      t = { s with host := rest, tRstHi := ⟨d.extractLsb' 0 16, d.getLsbD 16⟩ } ∧
        t.hostRead 0x028 = d &&& 0x1FFFF) ∧
    (s.due (.write 0x02C d) rest → ∃ t, step s = .next t ∧
      t = { s with host := rest, ph1 := d.extractLsb' 0 16 } ∧ t.hostRead 0x02C = d &&& 0xFFFF) ∧
    (s.due (.write 0x030 d) rest → ∃ t, step s = .next t ∧
      t = { s with host := rest, ph2 := d.extractLsb' 0 16 } ∧ t.hostRead 0x030 = d &&& 0xFFFF) ∧
    (s.due (.write 0x034 d) rest → ∃ t, step s = .next t ∧
      t = { s with host := rest, ph3 := d.extractLsb' 0 16 } ∧ t.hostRead 0x034 = d &&& 0xFFFF)

/-- R40: BRIGHT is write-any-read-legal: the whole written word decides whether it or 100 is stored. -/
def Obligations.BrightStoresALegalValue : Prop :=
  ∀ s d rest, s.busy = false → s.due (.write 0x018 d) rest →
    ∃ t, step s = .next t ∧
      t = { s with host := rest, bright := if d.toNat ≤ 100 then d.extractLsb' 0 7 else 100 } ∧
      t.hostRead 0x018 = (if d.toNat ≤ 100 then d else 100)

/-- R41: NRAILS takes any value while LC is Detached and ignores writes otherwise. -/
def Obligations.NrailsIsLockedOutsideDetached : Prop :=
  ∀ s d rest, s.busy = false → s.due (.write 0x01C d) rest →
    ∃ t, step s = .next t ∧
      (s.status.lc = .detached → t = { s with host := rest, nrails := d.extractLsb' 0 3 } ∧
        t.hostRead 0x01C = d &&& 0x7) ∧
      (s.status.lc ≠ .detached → t = { s with host := rest } ∧ t.hostRead 0x01C = s.hostRead 0x01C)

/-- R72, R73: an idle word write to a buffer writes its four bytes little-endian and nothing else, and reads back. -/
def Obligations.BufferWordWriteReadsBack : Prop :=
  ∀ s (off : Offset) d rest, s.busy = false → alignedOffset off = true →
    ((0x100 ≤ off.toNat ∧ off.toNat < 0x200) ∨ 0x1000 ≤ off.toNat) →
    s.due (.write off d) rest →
    ∃ t, step s = .next t ∧ t = { s with host := rest, mem := t.mem } ∧
      (∀ k, k < 4 → Mem.read t.mem (off.toNat + k) = some (d.extractLsb' (8 * k) 8)) ∧
      (∀ a, a < off.toNat ∨ off.toNat + 3 < a → Mem.read t.mem a = Mem.read s.mem a) ∧
      t.hostRead off = d

/-- R33, R34, R270: the places of the fields in the STATUS word, their codes, and the bits that read 0. ERR reads as the
register when no command is in progress; while one is, as the value from before it (R232; that R230, R33 and R270 speak of
the register there is DEDUCED: notes/assumptions/25.md). -/
def Obligations.StatusWordFields : Prop :=
  ∀ s : State,
    s.statusWord.getLsbD 0 = s.cont.isSome ∧
    s.statusWord.extractLsb' 1 2 = s.status.lc.code ∧
    s.statusWord.getLsbD 3 = false ∧
    s.statusWord.extractLsb' 4 3 = s.status.pstate.code ∧
    s.statusWord.getLsbD 7 = s.status.aborted ∧
    s.statusWord.extractLsb' 8 4 = s.errRead.code ∧
    (s.cont = none → s.errRead = s.status.err) ∧
    (∀ c, s.cont = some c → s.errRead = c.errBefore) ∧
    s.statusWord.getLsbD 12 = s.status.lineFault ∧
    s.statusWord.getLsbD 13 = s.status.busyViol ∧
    s.statusWord.extractLsb' 14 18 = 0 ∧
    s.hostRead 0x004 = s.statusWord ∧
    [Lifecycle.detached, .attached, .released, .failed].map Lifecycle.code = [0, 1, 2, 3] ∧
    [PowerState.unpowered, .enableAsserted, .regulatorsOn, .resetAsserted, .resetReleased, .bridgeConfigured,
      .panelScripted, .displayOn].map PowerState.code = [0, 1, 2, 3, 4, 5, 6, 7] ∧
    [ErrCode.ok, .resource, .line, .rail, .backlight, .state, .param, .illegalCmd, .script, .order].map ErrCode.code =
      [0, 1, 2, 3, 4, 5, 6, 7, 8, 9] ∧
    s.errRead.code.toNat ≤ 9

/-! ### Acceptance of host commands -/

/-- R112: the reserved codes, and that a write of one while idle is rejected with ILLEGAL_CMD and changes nothing
else, whatever its upper bits are. -/
def Obligations.ReservedHostCodesAreRejected : Prop :=
  (∀ opc : Byte, listedHostCode opc = false ↔
    opc.toNat = 0x00 ∨ (0x03 ≤ opc.toNat ∧ opc.toNat ≤ 0x0F) ∨ (0x12 ≤ opc.toNat ∧ opc.toNat ≤ 0x1F) ∨
      (0x23 ≤ opc.toNat ∧ opc.toNat ≤ 0x2F) ∨ 0x31 ≤ opc.toNat) ∧
  (∀ (s : State) opc, s.busy = false →
    exec (.reservedHost opc) s = .next { s with status.err := .illegalCmd }) ∧
  (∀ s d rest, s.busy = false → listedHostCode (d.extractLsb' 0 8) = false → s.due (.write 0 d) rest →
    step s = .next { s with host := rest, status.err := .illegalCmd })

/-- R230 (checks 2 and 3), R214, R275: a listed command whose state condition fails is rejected with STATE, and one
whose operand is out of range, the state condition holding, with PARAM; nothing else changes. -/
def Obligations.CommandsOutsideTheirConditionsAreRejected : Prop :=
  ∀ s : State, s.busy = false →
    (s.status.lc ≠ .detached → exec .attach s = .next { s with status.err := .state }) ∧
    (s.status.lc ≠ .attached → exec .detach s = .next { s with status.err := .state }) ∧
    (s.status.lc ≠ .attached ∨ s.status.lineFault = true →
      exec .xferW9 s = .next { s with status.err := .state } ∧
      exec .xferR16 s = .next { s with status.err := .state } ∧
      exec .regWrite s = .next { s with status.err := .state } ∧
      exec .regRead s = .next { s with status.err := .state } ∧
      exec .pktSend s = .next { s with status.err := .state }) ∧
    (s.status.lc ≠ .attached ∨ s.status.lineFault = true ∨ s.status.pstate ≠ .unpowered ∨
        s.status.aborted = true →
      exec .powerOn s = .next { s with status.err := .state }) ∧
    (s.status.lc = .detached → s.nrails = 0 → exec .attach s = .next { s with status.err := .param }) ∧
    (s.status.lc = .attached → s.status.lineFault = false → (s.arg0.toNat = 0 ∨ 256 < s.arg0.toNat) →
      exec .pktSend s = .next { s with status.err := .param })

/-- R230, R233, R234: ATTACH is accepted while Detached with a legal NRAILS, with the body of R233 to run; DETACH is
accepted whenever LC is Attached, also after a line fault, and will release every handle of Own in ATTACH order. -/
def Obligations.AttachAndDetachAreAccepted : Prop :=
  (∀ s : State, s.cont = none → s.status.lc = .detached → s.nrails ≠ 0 →
    exec .attach s = .next { s with
      status.err := .ok
      cont := some ⟨.attach, none, (handlesOf s.nrails).map (fun h => Op.prim (.acquire h)) ++
        [.prim (.setLine .cs true), .prim (.setLine .sck true), .prim (.setLine .sdi false)], none, s.status.err⟩ }) ∧
  (∀ s : State, s.cont = none → s.status.lc = .attached →
    ∃ hs : List Handle,
      exec .detach s = .next { s with
        status.err := .ok
        cont := some ⟨.detach, none, hs.map (fun h => Op.prim (.release h)), none, s.status.err⟩ } ∧
      (∀ h, h ∈ hs ↔ h ∈ s.own) ∧ hs.Sublist (handlesOf 7))

/-- R230, R235 to R238: the transfer commands are accepted while Attached without a line fault, in every PSTATE, and
their bodies are the wire words and the read of their rules, from ARG0 and ARG1 as they stand. -/
def Obligations.TransferCommandsAreAccepted : Prop :=
  ∀ s : State, s.idleAttached →
    exec .xferW9 s = .next { s with
      status.err := .ok, cont := some ⟨.xferW9, none, [.w9 (s.arg0.extractLsb' 0 9)], none, s.status.err⟩ } ∧
    exec .xferR16 s = .next { s with status.err := .ok, cont := some ⟨.xferR16, none, [.read16], none, s.status.err⟩ } ∧
    exec .regWrite s = .next { s with
      status.err := .ok
      cont := some ⟨.regWrite, none,
        [.frame .cmd (s.arg0.extractLsb' 0 8), .frame .data (s.arg1.extractLsb' 0 8),
          .frame .data (s.arg1.extractLsb' 8 8)], none, s.status.err⟩ } ∧
    exec .regRead s = .next { s with
      status.err := .ok
      cont := some ⟨.regRead, none,
        [.frame .cmd s.cfg.regReadReq, .frame .data s.cfg.codeReadAck, .frame .data 0x00,
          .frame .cmd (s.arg0.extractLsb' 0 8), .frame .cmd s.cfg.codeReadAck, .read16], none, s.status.err⟩ }

/-- R239, R163: PKT_SEND of 1 to 256 written bytes of PKTBUF is accepted with the packet of R163 as its body: the
length announcement, the drop word, the payload in order. -/
def Obligations.PktSendIsAccepted : Prop :=
  ∀ (s : State) (bytes : List Byte), s.idleAttached → bytes.length = s.arg0.toNat →
    1 ≤ s.arg0.toNat → s.arg0.toNat ≤ 256 →
    (∀ k (h : k < bytes.length), Mem.read s.mem (0x100 + k) = some bytes[k]) →
    exec .pktSend s = .next { s with
      status.err := .ok
      cont := some ⟨.pktSend, none,
        [.frame .cmd s.cfg.regPktLen, .frame .data (s.arg0.extractLsb' 0 8), .frame .data (s.arg0.extractLsb' 8 8),
          .frame .cmd s.cfg.regPktDrop] ++ bytes.map (fun b => Op.frame .dsi b), none, s.status.err⟩ }

/-- R49, R195, R239: PKT_SEND of a range with a byte the host never wrote faults, at the first such byte. So does
validation, at any byte its walk reads: an opcode after instructions it passed, the id of a REGW, the count of a PKT;
and POWER_ON faults at that byte of the first phase that does not pass. -/
def Obligations.UnwrittenBufferByteFaults : Prop :=
  (∀ (s : State) (k : Nat), s.idleAttached → 1 ≤ s.arg0.toNat → s.arg0.toNat ≤ 256 → k < s.arg0.toNat →
    Mem.read s.mem (0x100 + k) = none →
    ∃ j, j ≤ k ∧ Mem.read s.mem (0x100 + j) = none ∧
      (∀ i, i < j → (Mem.read s.mem (0x100 + i)).isSome = true) ∧
      exec .pktSend s = .fault (.unwrittenBuffer (0x100 + j))) ∧
  (∀ (s : State) (ph : Phase) (ptr : Half) (is : List Instr) (pc : Nat), s.legalUpTo ph ptr is →
    pc = offsetAfter ptr.toNat is →
    (pc < 4096 → scriptByte s.mem pc = none → validate s.cfg s.mem ph ptr = .unwritten pc) ∧
    (pc + 3 < 4096 → scriptByte s.mem pc = some 0x01 → scriptByte s.mem (pc + 1) = none →
      validate s.cfg s.mem ph ptr = .unwritten (pc + 1)) ∧
    (ph = .two → pc + 1 < 4096 → scriptByte s.mem pc = some 0x02 → scriptByte s.mem (pc + 1) = none →
      validate s.cfg s.mem ph ptr = .unwritten (pc + 1))) ∧
  (∀ (s : State) (a : Nat), s.cont = none → s.powerAllowed = true →
    (validate s.cfg s.mem .one s.ph1 = .unwritten a ∨
      ((∃ p1, validate s.cfg s.mem .one s.ph1 = .ok p1) ∧
        (validate s.cfg s.mem .two s.ph2 = .unwritten a ∨
          ((∃ p2, validate s.cfg s.mem .two s.ph2 = .ok p2) ∧ validate s.cfg s.mem .three s.ph3 = .unwritten a)))) →
    exec .powerOn s = .fault (.unwrittenBuffer (0x1000 + a)))

/-- R230, R240: POWER_ON that passes validation is accepted with steps S1 to S6 as its body (R207 to R212), and SP is
where validation ended (DEDUCED: notes/assumptions/10.md). -/
def Obligations.PowerOnIsAccepted : Prop :=
  ∀ (s : State) (pc : Nat), s.cont = none → s.powerAllowed = true → s.validateAll = .ok pc →
    exec .powerOn s = .next { s with
      sp := BitVec.ofNat 16 pc
      status.err := .ok
      cont := some ⟨.powerOn, none,
        [.prim (.setLine .en true)] ++ s.tEn.ops ++ [.setPState .enableAsserted] ++
        (railsOf s.nrails).map (fun k => Op.prim (.railOn k)) ++ [.setPState .regulatorsOn] ++
        [.prim (.setLine .rst false)] ++ s.tRstLo.ops ++ [.setPState .resetAsserted] ++
        [.prim (.setLine .rst true)] ++ s.tRstHi.ops ++ [.setPState .resetReleased] ++
        [.runPhase .one s.ph1, .setPState .bridgeConfigured] ++
        [.runPhase .two s.ph2, .setPState .panelScripted] ++
        [.runPhase .three s.ph3, .prim .blEnable, .prim (.blSet s.bright), .setPState .displayOn], none, s.status.err⟩ }

/-- R206: POWER_ON starts only if all three phases pass validation. Validation that rejects sets ERR and SP (R272) and
nothing else, so no event is emitted, BUSY was never set, PSTATE is still Unpowered and ABORTED 0; the first phase that
fails decides. -/
def Obligations.PowerOnRejectedByValidation : Prop :=
  (∀ s t : State, s.cont = none → s.powerAllowed = true → exec .powerOn s = .next t → t.busy = true →
    (∃ p1, validate s.cfg s.mem .one s.ph1 = .ok p1) ∧ (∃ p2, validate s.cfg s.mem .two s.ph2 = .ok p2) ∧
      (∃ p3, validate s.cfg s.mem .three s.ph3 = .ok p3)) ∧
  (∀ (s : State) (e : ErrCode) (pc : Nat), s.cont = none → s.powerAllowed = true →
    (validate s.cfg s.mem .one s.ph1 = .reject e pc ∨
      ((∃ p1, validate s.cfg s.mem .one s.ph1 = .ok p1) ∧
        (validate s.cfg s.mem .two s.ph2 = .reject e pc ∨
          ((∃ p2, validate s.cfg s.mem .two s.ph2 = .ok p2) ∧ validate s.cfg s.mem .three s.ph3 = .reject e pc)))) →
    ∃ t, exec .powerOn s = .next t ∧ t = { s with sp := BitVec.ofNat 16 pc, status.err := e } ∧
      t.busy = false ∧ t.status.pstate = .unpowered ∧ t.status.aborted = false)

/-- R195, R123, R197: after instructions it passed, validation rejects the first illegal one with the code of R195 and SP
at it: SCRIPT for an offset past the script (a pointer, or a fall-through), a reserved opcode, a REGW, PKT or delay cut
off by the end of the script, a PKT outside phase 2 and a PKT of no byte; ORDER for a REGW of the PLL configuration
after one of the PLL latch. POWER_ON does what the reserved opcode's own meaning does at that offset (what that meaning
does on its own is the model's choice: notes/assumptions/11.md). -/
def Obligations.IllegalScriptInstructionsAreRejected : Prop :=
  (∀ (s : State) (ph : Phase) (ptr : Half) (is : List Instr) (pc : Nat), s.legalUpTo ph ptr is →
    pc = offsetAfter ptr.toNat is →
    (4096 ≤ pc → validate s.cfg s.mem ph ptr = .reject .script pc) ∧
    (∀ op, pc < 4096 → scriptByte s.mem pc = some op →
      (5 ≤ op.toNat ∨ (op = 0x01 ∧ 4096 ≤ pc + 3) ∨ (op = 0x02 ∧ ph ≠ .two) ∨ (op = 0x02 ∧ 4096 ≤ pc + 1) ∨
        (op = 0x02 ∧ scriptByte s.mem (pc + 1) = some 0) ∨
        (op = 0x02 ∧ ∃ n, scriptByte s.mem (pc + 1) = some n ∧ 4096 ≤ pc + 1 + n.toNat) ∨
        ((op = 0x03 ∨ op = 0x04) ∧ 4096 ≤ pc + 2)) →
      validate s.cfg s.mem ph ptr = .reject .script pc) ∧
    (∀ v, pc + 3 < 4096 → scriptByte s.mem pc = some 0x01 → scriptByte s.mem (pc + 1) = some s.cfg.regPllCfg →
      .regw s.cfg.regPllCtrl v ∈ is → validate s.cfg s.mem ph ptr = .reject .order pc)) ∧
  (∀ (s : State) (op : Byte), s.cont = none → s.powerAllowed = true → s.ph1.toNat < 4096 →
    scriptByte s.mem s.ph1.toNat = some op → 5 ≤ op.toNat →
    exec .powerOn s = .next { s with sp := s.ph1, status.err := .script } ∧
    exec (.reservedScript op) { s with sp := s.ph1 } = .next { s with sp := s.ph1, status.err := .script })

/-- R197: the property of the source that validation enforces for every script: a phase that passes never writes the
PLL configuration after the PLL latch. -/
def Obligations.ValidatedPhaseIsPllOrdered : Prop :=
  ∀ (s : State) (ph : Phase) (ptr : Half) (pc : Nat),
    validate s.cfg s.mem ph ptr = .ok pc → pllOrdered s.cfg (s.phaseListing ptr)

/-- R123, R195, R180, R197: a phase that passes validation holds only legal instructions, ends with END, where SP is left,
and holds a packet only in phase 2; and the fetch at every offset of it gives the instruction there. Conversely, where the
two PLL ids differ, as R10 requires, legal instructions laid out from the pointer on, in PLL order, with an END after
them, pass, whatever the bytes are that validation does not read. -/
def Obligations.ValidationPassesExactlyTheLegalPhases : Prop :=
  (∀ (s : State) (ph : Phase) (ptr : Half) (pc : Nat), validate s.cfg s.mem ph ptr = .ok pc →
    (∃ before, s.phaseListing ptr = before ++ [.endPhase] ∧ Instr.endPhase ∉ before ∧
      pc = offsetAfter ptr.toNat before) ∧
    (∀ i ∈ s.phaseListing ptr, i.wf = true ∧ (∀ op, i ≠ .reservedScript op) ∧
      (∀ bs, i = .pkt bs → ph = .two)) ∧
    (∀ before i after, s.phaseListing ptr = before ++ i :: after →
      State.fetchScript { s with sp := BitVec.ofNat 16 (offsetAfter ptr.toNat before) } ph = .ok i)) ∧
  (∀ (s : State) (ph : Phase) (ptr : Half) (is : List Instr) (pc : Nat), s.legalUpTo ph ptr is →
    pc = offsetAfter ptr.toNat is → pc < 4096 → scriptByte s.mem pc = some 0x00 →
    validate s.cfg s.mem ph ptr = .ok pc)

/-! ### Script instructions -/

/-- R181: END, byte 0x00, returns from RunPhase: no event, no flag, pc keeps its offset, and the power state machine
makes the phase's PSTATE transition (also for a phase whose first instruction it is): next in phases 1 and 2, and in
phase 3 after the two backlight calls (R212). -/
def Obligations.EndReturnsFromThePhase : Prop :=
  (∀ bs, decodeScript (0x00 :: bs) = .ok (.endPhase, bs)) ∧
  (∀ (s : State) (c : Cont), s.cont = some c → c.xfer = none →
    exec .endPhase s = .next { s with cont := some { c with phase := none } }) ∧
  (∀ (s : State) (c : Cont) (ph : Phase) (p : PowerState) (rest : List Op), s.host = [] → s.cont = some c →
    c.xfer = none → c.phase = some ph → c.ops = .script :: .setPState p :: rest → s.sp.toNat < 4096 →
    scriptByte s.mem s.sp.toNat = some 0x00 →
    ∃ n, runSteps n s = .next { s with
      status.pstate := p, cont := some { c with phase := none, ops := rest } }) ∧
  (∀ (s : State) (c : Cont) (b : BitVec 7) (rest : List Op), s.host = [] → s.cont = some c → c.xfer = none →
    c.phase = some .three → c.ops = [.script, .prim .blEnable, .prim (.blSet b), .setPState .displayOn] ++ rest →
    s.sp.toNat < 4096 → scriptByte s.mem s.sp.toNat = some 0x00 → s.env.grants 2 →
    (∃ n, runSteps n s = .next { s with
      cont := some { c with
        phase := none, ops := [.prim .blEnable, .prim (.blSet b), .setPState .displayOn] ++ rest } }) ∧
    (∃ n, runSteps n s = .next { s with
      status.pstate := .displayOn, cont := some { c with phase := none, ops := rest }
      trace := s.trace ++ [.blEnable, .blSet b], env := s.env.afterCalls 2 }))

/-- R182 to R185, R14: REGW puts a register write before the statements left, PKT a command packet, a delay one wait
(none for a count of 0); after it come the advance of pc by the instruction's length and the next round of the loop. -/
def Obligations.ScriptInstructionsExpand : Prop :=
  ∀ (s : State) (c : Cont), s.cont = some c → c.xfer = none →
    (∀ (id : Byte) (value : Half), exec (.regw id value) s = .next { s with
      cont := some { c with
        ops := [.frame .cmd id, .frame .data (value.extractLsb' 0 8), .frame .data (value.extractLsb' 8 8),
          .advance 4, .script] ++ c.ops } }) ∧
    (∀ payload : List Byte, payload.length ≤ 255 → exec (.pkt payload) s = .next { s with
      cont := some { c with
        ops := [.frame .cmd s.cfg.regPktLen, .frame .data (BitVec.ofNat 8 payload.length), .frame .data 0x00,
          .frame .cmd s.cfg.regPktDrop] ++ payload.map (fun b => Op.frame .dsi b) ++
          [.advance (2 + payload.length), .script] ++ c.ops } }) ∧
    (∀ count : Half, exec (.delayMs count) s = .next { s with
      cont := some { c with
        ops := (if count = 0 then [] else [.prim (.wait count.toNat .ms)]) ++ [.advance 3, .script] ++ c.ops } }) ∧
    (∀ count : Half, exec (.delayUs count) s = .next { s with
      cont := some { c with
        ops := (if count = 0 then [] else [.prim (.wait count.toNat .us)]) ++ [.advance 3, .script] ++ c.ops } })

/-- R184, R185: a delay instruction in SCRIPT, run to its end: one Wait of its count and unit, none for 0; pc + 3; no
flag, no exception, no bound on the count. -/
def Obligations.DelayInstructionsRun : Prop :=
  ∀ (s : State) (c : Cont) (ph : Phase) (rest : List Op) (op lo hi : Byte) (u : TimeUnit), s.host = [] →
    s.cont = some c → c.xfer = none → c.phase = some ph → c.ops = .script :: rest → s.sp.toNat + 2 < 4096 →
    scriptByte s.mem s.sp.toNat = some op → scriptByte s.mem (s.sp.toNat + 1) = some lo →
    scriptByte s.mem (s.sp.toNat + 2) = some hi →
    ((op = 0x03 ∧ u = .ms) ∨ (op = 0x04 ∧ u = .us)) →
    (lo.toNat + 256 * hi.toNat = 0 → ∃ n, runSteps n s = .next { s with sp := s.sp + 3 }) ∧
    (lo.toNat + 256 * hi.toNat ≠ 0 → ∃ n, runSteps n s = .next { s with
      sp := s.sp + 3, trace := s.trace ++ [.wait (lo.toNat + 256 * hi.toNat) u] })

/-- R182: REGW run to its end when the lines do not fail: three wire words, 147 events, pc + 4, and the loop goes on. How
many steps it takes is the model's choice (notes/assumptions/4.md). -/
def Obligations.RegwRuns : Prop :=
  ∀ (s : State) (c : Cont) (ph : Phase) (rest : List Op) (id : Byte) (value : Half), s.host = [] →
    s.cont = some c → c.xfer = none → c.phase = some ph → c.ops = .script :: rest →
    s.fetchScript ph = .ok (.regw id value) → s.env.grants 87 →
    runSteps 152 s = .next { s.sent (registerWords id value) with sp := s.sp + 4 } ∧
      (wordEvents s.cfg (registerWords id value)).length = 147

/-- R183: PKT run to its end when the lines do not fail: 4 + n wire words, (4 + n) × 49 events, pc + 2 + n, and the loop
goes on. How many steps it takes is the model's choice (notes/assumptions/4.md). -/
def Obligations.PktRuns : Prop :=
  ∀ (s : State) (c : Cont) (ph : Phase) (rest : List Op) (payload : List Byte), s.host = [] →
    s.cont = some c → c.xfer = none → c.phase = some ph → c.ops = .script :: rest →
    s.fetchScript ph = .ok (.pkt payload) → s.env.grants (29 * (4 + payload.length)) →
    runSteps (2 + 50 * (4 + payload.length)) s =
      .next { s.sent (packetWords s.cfg payload) with sp := s.sp + BitVec.ofNat 16 (2 + payload.length) } ∧
      (wordEvents s.cfg (packetWords s.cfg payload)).length = (4 + payload.length) * 49

/-! ### Wire words and transfers -/

/-- R102: the role codes are one-hot, and a code that is not one-hot has no role. -/
def Obligations.RoleCodesAreOneHot : Prop :=
  Role.cmd.code = 0b001 ∧ Role.data.code = 0b010 ∧ Role.dsi.code = 0b100 ∧
    (∀ (c : BitVec 3) (r : Role), Role.ofCode c = some r ↔ c = r.code)

/-- R103, R165, R140, R141: each wire instruction starts the write transfer of the word TAG(role), byte, and READ16 a
read transfer, in a command between transfers. -/
def Obligations.WireInstructionsStartTheirTransfer : Prop :=
  ∀ (s : State) (c : Cont) (b : Byte), s.cont = some c → c.xfer = none →
    exec (.wireCmd b) s = .next { s with cont := some { c with
      xfer := some ⟨.write (s.cfg.tagCmd ++ b), 8, .select⟩ } } ∧
    exec (.wireData b) s = .next { s with cont := some { c with
      xfer := some ⟨.write (s.cfg.tagData ++ b), 8, .select⟩ } } ∧
    exec (.wireDsi b) s = .next { s with cont := some { c with
      xfer := some ⟨.write (s.cfg.tagDsi ++ b), 8, .select⟩ } } ∧
    exec .read16 s = .next { s with cont := some { c with xfer := some ⟨.read 0, 15, .select⟩ } }

/-- R140: a write transfer whose line calls succeed takes 49 steps and emits exactly the 49 events of R140, bit 8
first; it leaves select and clock high and SDI at bit 0, and changes nothing else. -/
def Obligations.WriteTransferEmitsItsEvents : Prop :=
  ∀ (s : State) (c : Cont) (w : Word9), s.host = [] → s.cont = some c →
    c.xfer = some ⟨.write w, 8, .select⟩ → s.env.grants 29 →
    runSteps 49 s = .next { s with
      cont := some { c with xfer := none }
      trace := s.trace ++ writeEvents s.cfg w
      lvl := s.lvl.afterWrite w
      env := s.env.afterCalls 29 } ∧
    (writeEvents s.cfg w).length = 49

/-- R141, R142: a read transfer whose line calls succeed takes 84 steps and emits exactly the 84 events of R141; its
raw bits are the 16 samples, the first in bit 15; SDI is not driven. The raw bits go to the command as
`returnRead`, the model's statement for the rest of the command's pseudocode (DEDUCED: notes/assumptions/16.md). -/
def Obligations.ReadTransferEmitsItsEvents : Prop :=
  ∀ (s : State) (c : Cont), s.host = [] → s.cont = some c → c.xfer = some ⟨.read 0, 15, .select⟩ →
    s.env.grants 50 →
    ∃ raw, s.env.samples raw ∧
      runSteps 84 s = .next { s with
        cont := some { c with xfer := none, ops := .returnRead raw :: c.ops }
        trace := s.trace ++ readEvents s.cfg raw
        lvl := s.lvl.afterRead
        env := { s.env with calls := s.env.calls + 50, draws := s.env.draws + 16 } } ∧
      (readEvents s.cfg raw).length = 84

/-- R142, R236, R238: the value of a read is the byte swap of its raw bits, and the command that ends with it puts the
value in RDATA and the raw bits in RRAW as it completes. That `returnRead` does both in one step and ends the command,
whatever statements are left, is the model's reading (DEDUCED: notes/assumptions/16.md, notes/assumptions/9.md). -/
def Obligations.ReadValueIsByteSwapped : Prop :=
  (∀ raw : Half, (swap16 raw).extractLsb' 0 8 = raw.extractLsb' 8 8 ∧
    (swap16 raw).extractLsb' 8 8 = raw.extractLsb' 0 8) ∧
  (∀ (s : State) (c : Cont) (raw : Half) (rest : List Op), s.host = [] → s.cont = some c → c.xfer = none →
    c.ops = .returnRead raw :: rest → c.cmd = .xferR16 ∨ c.cmd = .regRead →
    ∃ n, runSteps n s = .next { s with rdata := swap16 raw, rraw := raw, cont := none })

/-- R143, R147: the transport time units of a transfer, in general and under the default parameters; nine rising clock
edges and nine data bits in a write transfer, sixteen and sixteen samples in a read transfer; select is driven only by
the first and the last event. -/
def Obligations.TransferTimesAndShape : Prop :=
  ∀ (p : Params) (w : Word9) (raw : Half),
    traceTU (writeEvents p w) = p.tCss + 18 + p.tIfd ∧
    traceTU (readEvents p raw) = p.tCss + 32 + p.tIfd ∧
    traceTU (writeEvents Config.defaults w) = 22 ∧ traceTU (readEvents Config.defaults raw) = 36 ∧
    (writeEvents p w).count (.line .sck true) = 9 ∧
    ((writeEvents p w).filterMap fun e => match e with | .line .sdi v => some v | _ => none) =
      [8, 7, 6, 5, 4, 3, 2, 1, 0].map (fun i => w.getLsbD i) ∧
    (readEvents p raw).count (.line .sck true) = 16 ∧
    ((readEvents p raw).filterMap fun e => match e with | .sample b => some b | _ => none) =
      [15, 14, 13, 12, 11, 10, 9, 8, 7, 6, 5, 4, 3, 2, 1, 0].map (fun i => raw.getLsbD i) ∧
    (∀ v, Event.line .sdi v ∉ readEvents p raw) ∧
    (∃ es, writeEvents p w = .line .cs false :: (es ++ [.line .cs true]) ∧ ∀ v, Event.line .cs v ∉ es) ∧
    (∃ es, readEvents p raw = .line .cs false :: (es ++ [.line .cs true]) ∧ ∀ v, Event.line .cs v ∉ es)

/-! ### Collaborator calls and errors -/

/-- R13: each collaborator call of a command's body, with the event and effect of its success, and, where it can fail,
the Fail event, the line's level and the error of its failure. -/
def Obligations.CollaboratorCalls : Prop :=
  ∀ (s : State) (c : Cont) (rest : List Op), s.host = [] → s.cont = some c → c.xfer = none →
    (∀ n u, c.ops = .prim (.wait n u) :: rest → step s = .next { s with
      cont := some { c with ops := rest }, trace := s.trace ++ [.wait n u] }) ∧
    (∀ h, c.ops = .prim (.release h) :: rest → step s = .next { s with
      cont := some { c with ops := rest }, trace := s.trace ++ [.release h]
      own := s.own.filter (fun x => x != h), lvl := s.lvl.release h }) ∧
    (s.env.answer = true →
      (∀ h, c.ops = .prim (.acquire h) :: rest → ∃ own, step s = .next { s with
        cont := some { c with ops := rest }, trace := s.trace ++ [.acquire h], own := own
        env.calls := s.env.calls + 1 } ∧ ∀ x, x ∈ own ↔ x ∈ s.own ∨ x = h) ∧
      (∀ l v, c.ops = .prim (.setLine l v) :: rest → step s = .next { s with
        cont := some { c with ops := rest }, trace := s.trace ++ [.line l v]
        lvl := s.lvl.set l (if v then .one else .zero), env.calls := s.env.calls + 1 }) ∧
      (∀ k, c.ops = .prim (.railOn k) :: rest → step s = .next { s with
        cont := some { c with ops := rest }, trace := s.trace ++ [.rail k], env.calls := s.env.calls + 1 }) ∧
      (c.ops = .prim .blEnable :: rest → step s = .next { s with
        cont := some { c with ops := rest }, trace := s.trace ++ [.blEnable], env.calls := s.env.calls + 1 }) ∧
      (∀ p, c.ops = .prim (.blSet p) :: rest → step s = .next { s with
        cont := some { c with ops := rest }, trace := s.trace ++ [.blSet p], env.calls := s.env.calls + 1 })) ∧
    (s.env.answer = false →
      (∀ h, c.ops = .prim (.acquire h) :: rest → step s = .next { s with
        cont := none, trace := s.trace ++ [.fail .acquire h]
        status := s.status.raised .resource (some c.cmd), env.calls := s.env.calls + 1 }) ∧
      (∀ l v, c.ops = .prim (.setLine l v) :: rest → step s = .next { s with
        cont := none, trace := s.trace ++ [.fail .set (.line l)], lvl := s.lvl.set l .unknown
        status := s.status.raised .line (some c.cmd), env.calls := s.env.calls + 1 }) ∧
      (∀ k, c.ops = .prim (.railOn k) :: rest → step s = .next { s with
        cont := none, trace := s.trace ++ [.fail .rail (.rail k)]
        status := s.status.raised .rail (some c.cmd), env.calls := s.env.calls + 1 }) ∧
      (c.ops = .prim .blEnable :: rest → step s = .next { s with
        cont := none, trace := s.trace ++ [.fail .backlight .bl]
        status := s.status.raised .backlight (some c.cmd), env.calls := s.env.calls + 1 }) ∧
      (∀ p, c.ops = .prim (.blSet p) :: rest → step s = .next { s with
        cont := none, trace := s.trace ++ [.fail .backlight .bl]
        status := s.status.raised .backlight (some c.cmd), env.calls := s.env.calls + 1 }))

/-- R274: what raising an error does to the flags: ERR, LINE_FAULT for a line error, LC for ATTACH, ABORTED for
POWER_ON; PSTATE and BUSY_VIOL stay. -/
def Obligations.RaisedErrorFlags : Prop :=
  ∀ (st : Status) (e : ErrCode) (cmd : Command), ∃ st', st' = st.raised e (some cmd) ∧
    st'.err = e ∧ (st'.lineFault = true ↔ st.lineFault = true ∨ e = .line) ∧
    (cmd = .attach → st'.lc = .failed) ∧ (cmd ≠ .attach → st'.lc = st.lc) ∧
    (st'.aborted = true ↔ st.aborted = true ∨ cmd = .powerOn) ∧
    st'.pstate = st.pstate ∧ st'.busyViol = st.busyViol

/-- R144, R274, R276: a line call that fails anywhere inside a transfer ends the command there: its Fail event is the
last, the failed line's level is U, no other line changes (select is not deasserted), LINE_FAULT is set, RDATA and
RRAW stay. -/
def Obligations.FailedTransferStopsAtTheCall : Prop :=
  ∀ (s : State) (c : Cont) (x : Xfer), s.host = [] → s.cont = some c → c.xfer = some x → s.env.answer = false →
    (∀ l v, x.prim s.cfg = .setLine l v → step s = .next { s with
      cont := none, trace := s.trace ++ [.fail .set (.line l)], lvl := s.lvl.set l .unknown
      status := s.status.raised .line (some c.cmd), env.calls := s.env.calls + 1 }) ∧
    (x.prim s.cfg = .getSdo → step s = .next { s with
      cont := none, trace := s.trace ++ [.fail .get .sdo]
      status := s.status.raised .line (some c.cmd), env.calls := s.env.calls + 1 })

/-- R205, R208, R213, R215: a rail that fails to enable aborts POWER_ON at that call: the Fail event is the last of the
command, PSTATE keeps the state reached, ABORTED and ERR are set, no line changes, and the machine then waits. -/
def Obligations.RailFailureAbortsPowerOn : Prop :=
  ∀ (s : State) (c : Cont) (k : Fin 7) (rest : List Op), s.host = [] → s.cont = some c → c.cmd = .powerOn →
    c.xfer = none → c.ops = .prim (.railOn k) :: rest → s.env.answer = false →
    ∀ n, runSteps (n + 1) s = .next { s with
      cont := none
      trace := s.trace ++ [.fail .rail (.rail k)]
      status := { s.status with err := .rail, aborted := true }
      env.calls := s.env.calls + 1 }

/-! ### Whole commands

How many steps a command takes, its statements without an event among them, is the model's choice
(notes/assumptions/4.md); whether the calls succeed and what SDO reads are the outside's (notes/assumptions/1.md,
notes/assumptions/2.md). -/

/-- R233, R41: ATTACH from its CMD write to its end, when every call succeeds: the events of R233 in order, Attached,
every handle owned, the bus lines idle, EN and RST untouched; the rails are 0 to NRAILS-1, in that order. -/
def Obligations.AttachRuns : Prop :=
  ∀ (s : State) (d : Word), s.host = [⟨0, .write 0 d⟩] → d.extractLsb' 0 8 = 0x01#8 → s.cont = none →
    s.status.lc = .detached → s.nrails ≠ 0 → s.own = [] → s.env.grants (10 + s.nrails.toNat) →
    runSteps (12 + s.nrails.toNat) s = .next { s with
      host := []
      status := { s.status with err := .ok, lc := .attached }
      own := handlesOf s.nrails
      lvl := { s.lvl with cs := .one, sck := .one, sdi := .zero }
      trace := s.trace ++ (handlesOf s.nrails).map Event.acquire ++
        [.line .cs true, .line .sck true, .line .sdi false]
      env := s.env.afterCalls (10 + s.nrails.toNat) } ∧
    handlesOf s.nrails = [.line .cs, .line .sck, .line .sdi, .sdo, .line .en, .line .rst] ++
      (railsOf s.nrails).map .rail ++ [.bl] ∧
    (railsOf s.nrails).map Fin.val = List.range s.nrails.toNat

/-- R234: DETACH from its CMD write to its end: one Release per handle in ATTACH order, Released, nothing owned, every
line at U; rails, EN's level on the panel and PSTATE are not touched. -/
def Obligations.DetachRuns : Prop :=
  ∀ (s : State) (d : Word), s.host = [⟨0, .write 0 d⟩] → d.extractLsb' 0 8 = 0x02#8 → s.cont = none →
    s.status.lc = .attached → s.own = handlesOf s.nrails →
    runSteps (9 + (railsOf s.nrails).length) s = .next { s with
      host := []
      status := { s.status with err := .ok, lc := .released }
      own := []
      lvl := ⟨.unknown, .unknown, .unknown, .unknown, .unknown⟩
      trace := s.trace ++ (handlesOf s.nrails).map Event.release }

/-- R235: XFER_W9 from its CMD write to its end, when the lines do not fail: one write transfer of ARG0[8:0]. -/
def Obligations.XferW9Runs : Prop :=
  ∀ (s : State) (d : Word), s.host = [⟨0, .write 0 d⟩] → d.extractLsb' 0 8 = 0x10#8 → s.idleAttached →
    s.env.grants 29 →
    runSteps 52 s = .next { s with
      host := []
      status.err := .ok
      trace := s.trace ++ writeEvents s.cfg (s.arg0.extractLsb' 0 9)
      lvl := s.lvl.afterWrite (s.arg0.extractLsb' 0 9)
      env := s.env.afterCalls 29 }

/-- R236: XFER_R16 from its CMD write to its end, when the lines do not fail: one read transfer; RRAW is the 16 samples
and RDATA their byte swap. -/
def Obligations.XferR16Runs : Prop :=
  ∀ (s : State) (d : Word), s.host = [⟨0, .write 0 d⟩] → d.extractLsb' 0 8 = 0x11#8 → s.idleAttached →
    s.env.grants 50 →
    ∃ raw, s.env.samples raw ∧ runSteps 87 s = .next { s with
      host := []
      status.err := .ok
      rdata := swap16 raw
      rraw := raw
      trace := s.trace ++ readEvents s.cfg raw
      lvl := s.lvl.afterRead
      env := { s.env with calls := s.env.calls + 50, draws := s.env.draws + 16 } }

/-- R237, R161: REG_WRITE from its CMD write to its end, when the lines do not fail: the id as a command word, then the
low and the high byte as data words; 147 events. -/
def Obligations.RegWriteRuns : Prop :=
  ∀ (s : State) (d : Word), s.host = [⟨0, .write 0 d⟩] → d.extractLsb' 0 8 = 0x20#8 → s.idleAttached →
    s.env.grants 87 →
    runSteps 152 s = .next { s.sent (registerWords (s.arg0.extractLsb' 0 8) s.arg1) with
      host := [], status.err := .ok } ∧
    (wordEvents s.cfg (registerWords (s.arg0.extractLsb' 0 8) s.arg1)).length = 147

/-- R238, R162: REG_READ from its CMD write to its end, when the lines do not fail: the five words of the handshake, one
read transfer, 329 events; RRAW is the samples and RDATA their byte swap. -/
def Obligations.RegReadRuns : Prop :=
  ∀ (s : State) (d : Word), s.host = [⟨0, .write 0 d⟩] → d.extractLsb' 0 8 = 0x21#8 → s.idleAttached →
    s.env.grants 195 →
    ∃ raw, s.env.samples raw ∧
      runSteps 337 s = .next { s.sent (handshakeWords s.cfg (s.arg0.extractLsb' 0 8)) with
        host := []
        status.err := .ok
        rdata := swap16 raw
        rraw := raw
        trace := s.trace ++ wordEvents s.cfg (handshakeWords s.cfg (s.arg0.extractLsb' 0 8)) ++
          readEvents s.cfg raw
        lvl := (s.lvl.afterWords s.cfg (handshakeWords s.cfg (s.arg0.extractLsb' 0 8))).afterRead
        env := { s.env with calls := s.env.calls + 195, draws := s.env.draws + 16 } } ∧
      (wordEvents s.cfg (handshakeWords s.cfg (s.arg0.extractLsb' 0 8)) ++ readEvents s.cfg raw).length = 329

/-- R239, R163, R166: PKT_SEND from its CMD write to its end, when the lines do not fail: the length announcement, the
drop word and the payload, 4 + n wire words and nothing between them. -/
def Obligations.PktSendRuns : Prop :=
  ∀ (s : State) (d : Word) (bytes : List Byte), s.host = [⟨0, .write 0 d⟩] → d.extractLsb' 0 8 = 0x22#8 →
    s.idleAttached → bytes.length = s.arg0.toNat → 1 ≤ s.arg0.toNat → s.arg0.toNat ≤ 256 →
    (∀ k (h : k < bytes.length), Mem.read s.mem (0x100 + k) = some bytes[k]) →
    s.env.grants (29 * (4 + bytes.length)) →
    runSteps (2 + 50 * (4 + bytes.length)) s =
      .next { s.sent (packetWords s.cfg bytes) with host := [], status.err := .ok }

/-- R200, R207 to R212, R318: POWER_ON from its CMD write to its end, when its phases pass validation and every call
succeeds: enable, rails 0 to NRAILS-1 in order, reset pulse, the instructions of phases 1, 2 and 3, backlight, with the
profile's delays, and DisplayOn with SP at phase 3's END; as many events as R318's formula says. A phase may be empty. -/
def Obligations.PowerOnReachesDisplayOn : Prop :=
  ∀ (s : State) (d : Word) (pc : Nat) (is : List Instr) (ws : List (Role × Byte)), s.host = [⟨0, .write 0 d⟩] →
    d.extractLsb' 0 8 = 0x30#8 → s.cont = none → s.powerAllowed = true → s.validateAll = .ok pc →
    is = s.scriptListing → ws = is.flatMap (instrWords s.cfg) →
    s.env.grants (5 + s.nrails.toNat + 29 * ws.length) →
    runSteps (10 + s.preludeSteps + (is.map (instrSteps s.cfg)).sum) s = .next { s with
      host := []
      status := { s.status with err := .ok, pstate := .displayOn }
      sp := BitVec.ofNat 16 pc
      lvl := Levels.afterWords s.cfg { s.lvl with en := .one, rst := .one } ws
      trace := s.trace ++ s.preludeEvents ++ is.flatMap (instrEvents s.cfg) ++ [.blEnable, .blSet s.bright]
      env := s.env.afterCalls (5 + s.nrails.toNat + 29 * ws.length) } ∧
    (railsOf s.nrails).map Fin.val = List.range s.nrails.toNat ∧
    (s.preludeEvents ++ is.flatMap (instrEvents s.cfg) ++ [Event.blEnable, .blSet s.bright]).length =
      1 + (if 0 < s.tEn.count.toNat then 1 else 0) + s.nrails.toNat +
        (2 + (if 0 < s.tRstLo.count.toNat then 1 else 0) + (if 0 < s.tRstHi.count.toNat then 1 else 0)) +
        (is.map instrEventCount).sum + 2

/-! ### Steps and decoding -/

/-- R9, R180, R165, R230: a step runs the decoded instruction: a word due at CMD, the script instruction at pc, the next
wire word or read of a command. The step takes the access off the host's list, or the statement off the continuation,
and does nothing else around exec. What stands between an instruction and its step is the model's choice
(notes/assumptions/4.md, notes/assumptions/5.md). -/
def Obligations.StepRunsTheDecodedInstruction : Prop :=
  (∀ s d rest, s.due (.write 0 d) rest → step s = exec (decodeHost d) { s with host := rest }) ∧
  (∀ (s : State) (c : Cont) (rest : List Op), s.host = [] → s.cont = some c → c.xfer = none →
    (∀ ph i bs, c.ops = .script :: rest → c.phase = some ph →
      decodeScript (s.scriptFrom 257 s.sp.toNat) = .ok (i, bs) → (ph = .two ∨ ∀ payload, i ≠ .pkt payload) →
      step s = exec i { s with cont := some { c with ops := rest } }) ∧
    (∀ b, c.ops = .frame .cmd b :: rest →
      step s = exec (.wireCmd b) { s with cont := some { c with ops := rest } }) ∧
    (∀ b, c.ops = .frame .data b :: rest →
      step s = exec (.wireData b) { s with cont := some { c with ops := rest } }) ∧
    (∀ b, c.ops = .frame .dsi b :: rest →
      step s = exec (.wireDsi b) { s with cont := some { c with ops := rest } }) ∧
    (c.ops = .read16 :: rest → step s = exec .read16 { s with cont := some { c with ops := rest } }))

/-- R110, R121, R103: words written out from the spec's tables decode to their instructions. -/
def Obligations.WordsOfTheTablesDecode : Prop :=
  decodeHost 0x00000001 = .attach ∧ decodeHost 0x00000110 = .xferW9 ∧ decodeHost 0x00000030 = .powerOn ∧
    decodeHost 0x000000FF = .reservedHost 0xFF ∧
    decodeScript [0x01, 0xB7, 0x42, 0x03] = .ok (.regw 0xB7 0x0342, []) ∧
    decodeScript [0x02, 0x02, 0x11, 0x00] = .ok (.pkt [0x11, 0x00], []) ∧
    decodeScript [0x03, 0x50, 0x00] = .ok (.delayMs 80, []) ∧
    decodeScript [0x04, 0x34, 0x12] = .ok (.delayUs 0x1234, []) ∧
    decodeScript [0x02, 0x00] = .error .emptyPacket ∧
    decodeWire Config.defaults 0b001 0x0BC = .ok (.wireCmd 0xBC) ∧
    decodeWire Config.defaults 0b100 0x111 = .ok (.wireDsi 0x11)

/-- R110, R121, R100, R102: decoding the code of any well-formed instruction gives the instruction back, whatever the
parameters are. -/
def Obligations.DecodeOfEncodeIsTheInstruction : Prop :=
  ∀ (p : Params) (i : Instr), i.wf = true → decode p (encode p i) = .ok i

/-- R121, R122: what the script decoder reads is well formed, and its bytes are the bytes the encoder writes for it;
so every byte sequence has at most one reading and no bit of it is dropped. -/
def Obligations.ScriptBytesAreTheEncodersBytes : Prop :=
  ∀ (p : Params) (bs rest : List Byte) (i : Instr), decodeScript bs = .ok (i, rest) →
    i.wf = true ∧ ∃ front, bs = front ++ rest ∧ encode p i = .script front

/-! ### Frames, invariants and whole-machine rules -/

/-- R233 to R240, R272: what a host command leaves unchanged when exec gives a next state: everything but ERR,
BUSY_VIOL, the continuation, and, for POWER_ON, SP. -/
def Obligations.HostCommandFrame : Prop :=
  ∀ (i : Instr) (s t : State),
    i ∈ [.attach, .detach, .xferW9, .xferR16, .regWrite, .regRead, .pktSend, .powerOn] ∨
      (∃ opc, i = .reservedHost opc) →
    exec i s = .next t →
    t = { s with
      status := { s.status with err := t.status.err, busyViol := t.status.busyViol }, cont := t.cont, sp := t.sp } ∧
    (i ≠ .powerOn → t.sp = s.sp) ∧ (∀ a, t.byteAt a = s.byteAt a) ∧
    (∀ a, Mem.read t.mem a = Mem.read s.mem a)

/-- R180 to R185, R123, R165, R141: what a script instruction, a wire word or a read leaves unchanged when exec gives a
next state: everything but the continuation, and ERR for a reserved opcode (what that row does on
its own is the model's choice: notes/assumptions/11.md). -/
def Obligations.ScriptAndWireFrame : Prop :=
  ∀ (i : Instr) (s t : State),
    i ∈ [.endPhase, .read16] ∨ (∃ id v, i = .regw id v) ∨ (∃ bs, i = .pkt bs) ∨
      (∃ n, i = .delayMs n ∨ i = .delayUs n) ∨ (∃ b, i = .wireCmd b ∨ i = .wireData b ∨ i = .wireDsi b) ∨
      (∃ op, i = .reservedScript op) →
    exec i s = .next t →
    t = { s with status := { s.status with err := t.status.err }, cont := t.cont } ∧
    ((∀ op, i ≠ .reservedScript op) → t.status = s.status) ∧ (∀ a, t.byteAt a = s.byteAt a) ∧
    (∀ a, Mem.read t.mem a = Mem.read s.mem a)

/-- R9, R52: every step but a platform reset keeps the trace and adds at most one event to its end; the steps without an
event are the model's choice (notes/assumptions/4.md, notes/assumptions/5.md). -/
def Obligations.TraceGrowsByAtMostOneEvent : Prop :=
  ∀ s t : State, (∀ rest, ¬ s.due .reset rest) → step s = .next t →
    t.trace = s.trace ∨ ∃ e, t.trace = s.trace ++ [e]

/-- R33, R274, R300: LINE_FAULT, ABORTED and BUSY_VIOL, once set, stay set at every step but a platform reset, and the
parameters never change. -/
def Obligations.StickyFlagsStay : Prop :=
  ∀ s t : State, step s = .next t → t.cfg = s.cfg ∧
    ((∀ rest, ¬ s.due .reset rest) →
      (s.status.lineFault = true → t.status.lineFault = true) ∧
      (s.status.aborted = true → t.status.aborted = true) ∧
      (s.status.busyViol = true → t.status.busyViol = true))

/-- R47, R48, R83: no step but a host write or a platform reset changes a buffer byte; the controller never does. -/
def Obligations.OnlyTheHostWritesBuffers : Prop :=
  ∀ s t : State, (∀ off d rest, ¬ s.due (.write off d) rest) → (∀ rest, ¬ s.due .reset rest) →
    step s = .next t → t.mem = s.mem ∧ t.epoch = s.epoch

/-- The buffers' bytes stay in canonical form and inside the buffers (R47, R48, R55), and BRIGHT holds a legal value
(R40): every step keeps both. -/
def Obligations.StepKeepsBuffersCanonicalAndBrightLegal : Prop :=
  ∀ s t : State, s.buffersInv → s.brightInv → step s = .next t → t.buffersInv ∧ t.brightInv

/-- R54, R205: PSTATE changes only as POWER_ON writes it: each step leaves it, or moves it to the next state in the
source's order, or is a platform reset; and the invariant that says so is kept. -/
def Obligations.PstateOnlyAdvancesByOne : Prop :=
  ∀ s t : State, s.powerInv → step s = .next t →
    t.powerInv ∧ ((∀ rest, ¬ s.due .reset rest) →
      t.status.pstate = s.status.pstate ∨
        (t.status.pstate.code.toNat = s.status.pstate.code.toNat + 1 ∧
          ∃ c, s.cont = some c ∧ c.cmd = .powerOn))

/-- R34, R233, R234, R274: the lifecycle is one-way: Detached to Attached or Failed, Attached to Released; Released and
Failed are left only by reset; and the invariant that says so is kept. -/
def Obligations.LifecycleIsOneWay : Prop :=
  ∀ s t : State, s.lifecycleInv → step s = .next t →
    t.lifecycleInv ∧ ((∀ rest, ¬ s.due .reset rest) →
      t.status.lc = s.status.lc ∨
      (s.status.lc = .detached ∧ (t.status.lc = .attached ∨ t.status.lc = .failed)) ∨
      (s.status.lc = .attached ∧ t.status.lc = .released))

/-- R145, R147: select and clock are at their idle levels whenever a transfer can start, and inside a transfer they are
where R140 and R141 put them; every step keeps this. -/
def Obligations.TransfersStartFromIdleLines : Prop :=
  ∀ s t : State, s.busInv → step s = .next t → t.busInv

/-- R123: an illegal instruction never executes. While every fetch a command has still to make has passed validation, a
step keeps that so, runs no reserved opcode, and stops, if at all, only at an unwritten byte of a host command. -/
def Obligations.IllegalInstructionsNeverExecute : Prop :=
  ∀ s : State, s.scriptInv →
    (∀ t, step s = .next t → t.scriptInv) ∧
    (∀ f, step s = .fault f → ∃ off, f = .unwrittenBuffer off) ∧
    (∀ op t, s.next ≠ .run (.reservedScript op) t)

/-- The invariants hold at reset. -/
def Obligations.ResetMeetsTheInvariants : Prop :=
  State.reset.buffersInv ∧ State.reset.brightInv ∧ State.reset.powerInv ∧ State.reset.lifecycleInv ∧
    State.reset.busInv ∧ State.reset.scriptInv ∧ State.reset.dutyKept ∧ Config.wf State.reset.cfg = true

end
end

