-- ==== Sys2Proof/Laws/Buffers.lean ====
section
/-! SUPPORT. The laws of the buffer bytes: read after write, and the canonical form that every write keeps. -/

namespace Sys2Proof.Machine

@[simp] theorem Mem.read_write_same (m : Mem) (x : Nat) (b : Byte) : Mem.read (Mem.write m x b) x = some b := by
  induction m with
  | nil => simp [Mem.write, Mem.read]
  | cons c m ih =>
    obtain ⟨a, v⟩ := c
    by_cases h1 : x < a
    · simp [Mem.write, Mem.read, h1]
    · by_cases h2 : x = a
      · simp [Mem.write, Mem.read, h2]
      · have h3 : ¬ a = x := fun h => h2 h.symm
        simp [Mem.write, Mem.read, h1, h2, h3, ih]

theorem Mem.read_write_other (m : Mem) (x y : Nat) (b : Byte) (h : y ≠ x) :
    Mem.read (Mem.write m x b) y = Mem.read m y := by
  have hx : ¬ x = y := fun e => h e.symm
  induction m with
  | nil => simp [Mem.write, Mem.read, hx]
  | cons c m ih =>
    obtain ⟨a, v⟩ := c
    by_cases h1 : x < a
    · simp [Mem.write, Mem.read, h1, hx]
    · by_cases h2 : x = a
      · subst h2
        simp [Mem.write, Mem.read, hx]
      · simp [Mem.write, Mem.read, h1, h2, ih]

theorem Mem.above_mono {lo hi : Nat} (h : lo ≤ hi) (m : Mem) (hm : Mem.above hi m = true) :
    Mem.above lo m = true := by
  cases m with
  | nil => rfl
  | cons c m => simp_all [Mem.above]; omega

theorem Mem.above_write (m : Mem) (lo x : Nat) (b : Byte) (hx : lo ≤ x) (hm : Mem.above lo m = true) :
    Mem.above lo (Mem.write m x b) = true := by
  induction m generalizing lo with
  | nil => simpa [Mem.write, Mem.above] using hx
  | cons c m ih =>
    obtain ⟨a, v⟩ := c
    simp only [Mem.above, Bool.and_eq_true, decide_eq_true_eq] at hm
    by_cases h1 : x < a
    · simp only [Mem.write, h1, if_true, Mem.above, Bool.and_eq_true, decide_eq_true_eq]
      exact ⟨hx, by omega, hm.2⟩
    · by_cases h2 : x = a
      · subst h2
        simp [Mem.write, Mem.above, hm]
      · simp only [Mem.write, h1, h2, if_false, Mem.above, Bool.and_eq_true, decide_eq_true_eq]
        exact ⟨hm.1, ih (a + 1) (by omega) hm.2⟩

/-- A write keeps the canonical form. -/
theorem Mem.wf_write (m : Mem) (x : Nat) (b : Byte) (hm : Mem.wf m = true) : Mem.wf (Mem.write m x b) = true :=
  Mem.above_write m 0 x b (Nat.zero_le x) hm

/-- A word write keeps the canonical form. -/
theorem Mem.wf_writeWord (m : Mem) (off : Nat) (d : Word) (hm : Mem.wf m = true) :
    Mem.wf (Mem.writeWord m off d) = true :=
  Mem.wf_write _ _ _ (Mem.wf_write _ _ _ (Mem.wf_write _ _ _ (Mem.wf_write _ _ _ hm)))

/-- A property of offsets that holds of every listed byte holds after a write at an offset that has it. -/
theorem Mem.all_write (q : Nat → Bool) (m : Mem) (x : Nat) (b : Byte) (hx : q x = true)
    (hm : m.all (fun c => q c.1) = true) : (Mem.write m x b).all (fun c => q c.1) = true := by
  induction m with
  | nil => simp [Mem.write, hx]
  | cons c m ih =>
    obtain ⟨a, v⟩ := c
    simp only [List.all_cons, Bool.and_eq_true] at hm
    unfold Mem.write
    split
    · simp only [List.all_cons, Bool.and_eq_true]
      exact ⟨hx, hm.1, hm.2⟩
    · split
      · simp only [List.all_cons, Bool.and_eq_true]
        exact ⟨hx, hm.2⟩
      · simp only [List.all_cons, Bool.and_eq_true]
        exact ⟨hm.1, ih hm.2⟩

/-- Reading a word's bytes after a word write (R72, R73). -/
theorem Mem.read_writeWord_same (m : Mem) (off : Nat) (d : Word) :
    Mem.read (Mem.writeWord m off d) off = some (d.extractLsb' 0 8) ∧
      Mem.read (Mem.writeWord m off d) (off + 1) = some (d.extractLsb' 8 8) ∧
      Mem.read (Mem.writeWord m off d) (off + 2) = some (d.extractLsb' 16 8) ∧
      Mem.read (Mem.writeWord m off d) (off + 3) = some (d.extractLsb' 24 8) := by
  unfold Mem.writeWord
  refine ⟨?_, ?_, ?_, Mem.read_write_same _ _ _⟩
  · rw [Mem.read_write_other _ _ _ _ (by omega), Mem.read_write_other _ _ _ _ (by omega),
      Mem.read_write_other _ _ _ _ (by omega), Mem.read_write_same]
  · rw [Mem.read_write_other _ _ _ _ (by omega), Mem.read_write_other _ _ _ _ (by omega), Mem.read_write_same]
  · rw [Mem.read_write_other _ _ _ _ (by omega), Mem.read_write_same]

/-- A word write leaves every byte outside its four alone. -/
theorem Mem.read_writeWord_other (m : Mem) (off a : Nat) (d : Word) (h : a < off ∨ off + 3 < a) :
    Mem.read (Mem.writeWord m off d) a = Mem.read m a := by
  unfold Mem.writeWord
  rw [Mem.read_write_other _ _ _ _ (by omega), Mem.read_write_other _ _ _ _ (by omega),
    Mem.read_write_other _ _ _ _ (by omega), Mem.read_write_other _ _ _ _ (by omega)]

/-- The state after reset has its buffers in canonical form. -/
theorem State.reset_mem_wf : Mem.wf State.reset.mem = true := rfl

end Sys2Proof.Machine
end

