-- ==== Sys2Proof/Laws/Decode.lean ====
section
/-! SUPPORT. The laws of bytes and of the script decoder's operands. -/

namespace Sys2Proof

/-! ### Bytes of a 16-bit value (R11) -/

@[simp] theorem lowByte_half (hi lo : Byte) : lowByte (half hi lo) = lo :=
  BitVec.extractLsb'_append_eq_right

@[simp] theorem highByte_half (hi lo : Byte) : highByte (half hi lo) = hi :=
  BitVec.extractLsb'_append_eq_left

@[simp] theorem half_bytes (v : Half) : half (highByte v) (lowByte v) = v := by
  apply BitVec.eq_of_getLsbD_eq
  intro i h
  have e := BitVec.getLsbD_append (x := highByte v) (y := lowByte v) (i := i)
  refine e.trans ?_
  split
  · simp [lowByte, *]
  · have h1 : i - 8 < 8 := by omega
    have h2 : 8 + (i - 8) = i := by omega
    simp [highByte, h1, h2]

theorem half_toNat (hi lo : Byte) : (half hi lo).toNat = lo.toNat + 256 * hi.toNat := by
  rw [half, BitVec.toNat_append, ← Nat.shiftLeft_add_eq_or_of_lt lo.isLt, Nat.shiftLeft_eq]
  omega

/-! ### Splitting a list of bytes -/

theorem splitExact_append (front rest : List Byte) : splitExact front.length (front ++ rest) = some (front, rest) := by
  induction front with
  | nil => rfl
  | cons b front ih => simp [splitExact, ih]

theorem splitExact_some {n : Nat} {bs front rest : List Byte} (h : splitExact n bs = some (front, rest)) :
    bs = front ++ rest ∧ front.length = n := by
  induction n generalizing bs front with
  | zero =>
    cases h
    exact ⟨rfl, rfl⟩
  | succ n ih =>
    cases bs with
    | nil => cases h
    | cons b bs =>
      simp only [splitExact] at h
      split at h
      · cases h
        obtain ⟨h1, h2⟩ := ih (by assumption)
        exact ⟨by rw [h1, List.cons_append], by simp [h2]⟩
      · cases h

namespace Machine

/-! ### Script bytes -/

theorem State.byteAt_scriptByte {s : State} {a : Nat} {b : Byte} (h : scriptByte s.mem a = some b) :
    s.byteAt (Config.scriptBase + a) = b := by
  unfold scriptByte at h
  simp [State.byteAt, h]

theorem State.scriptFrom_succ (s : State) (n : Nat) {a : Nat} (h : a < 4096) :
    s.scriptFrom (n + 1) a = s.byteAt (Config.scriptBase + a) :: s.scriptFrom n (a + 1) := by
  simp [State.scriptFrom, Config.scriptBytes, h]

theorem State.scriptFrom_written {s : State} (n : Nat) {a : Nat} {b : Byte} (h : a < 4096)
    (hb : scriptByte s.mem a = some b) : s.scriptFrom (n + 1) a = b :: s.scriptFrom n (a + 1) := by
  rw [State.scriptFrom_succ s n h, State.byteAt_scriptByte hb]

theorem State.length_scriptFrom (s : State) (n : Nat) {a : Nat} (h : a + n ≤ 4096) :
    (s.scriptFrom n a).length = n := by
  induction n generalizing a with
  | zero => rfl
  | succ n ih => simp [State.scriptFrom_succ s n (show a < 4096 by omega), ih (show a + 1 + n ≤ 4096 by omega)]

theorem State.scriptFrom_add (s : State) (m n : Nat) {a : Nat} (h : a + m ≤ 4096) :
    s.scriptFrom (m + n) a = s.scriptFrom m a ++ s.scriptFrom n (a + m) := by
  induction m generalizing a with
  | zero => simp [State.scriptFrom]
  | succ m ih =>
    rw [Nat.succ_add, State.scriptFrom_succ s _ (show a < 4096 by omega),
      State.scriptFrom_succ s _ (show a < 4096 by omega), ih (show a + 1 + m ≤ 4096 by omega),
      List.cons_append, Nat.add_right_comm a 1 m, Nat.add_assoc a m 1]

end Machine

end Sys2Proof
end

