-- ==== Sys2Proof/Laws/State.lean ====
section
/-! SUPPORT. One lemma per field for each named update of the state, true by rfl. -/

namespace Sys2Proof.Machine

/-! ### `State.emit` -/

@[simp] theorem State.emit_status (s : State) (e : Event) : (s.emit e).status = s.status := rfl
@[simp] theorem State.emit_arg0 (s : State) (e : Event) : (s.emit e).arg0 = s.arg0 := rfl
@[simp] theorem State.emit_arg1 (s : State) (e : Event) : (s.emit e).arg1 = s.arg1 := rfl
@[simp] theorem State.emit_rdata (s : State) (e : Event) : (s.emit e).rdata = s.rdata := rfl
@[simp] theorem State.emit_rraw (s : State) (e : Event) : (s.emit e).rraw = s.rraw := rfl
@[simp] theorem State.emit_bright (s : State) (e : Event) : (s.emit e).bright = s.bright := rfl
@[simp] theorem State.emit_nrails (s : State) (e : Event) : (s.emit e).nrails = s.nrails := rfl
@[simp] theorem State.emit_tEn (s : State) (e : Event) : (s.emit e).tEn = s.tEn := rfl
@[simp] theorem State.emit_tRstLo (s : State) (e : Event) : (s.emit e).tRstLo = s.tRstLo := rfl
@[simp] theorem State.emit_tRstHi (s : State) (e : Event) : (s.emit e).tRstHi = s.tRstHi := rfl
@[simp] theorem State.emit_ph1 (s : State) (e : Event) : (s.emit e).ph1 = s.ph1 := rfl
@[simp] theorem State.emit_ph2 (s : State) (e : Event) : (s.emit e).ph2 = s.ph2 := rfl
@[simp] theorem State.emit_ph3 (s : State) (e : Event) : (s.emit e).ph3 = s.ph3 := rfl
@[simp] theorem State.emit_sp (s : State) (e : Event) : (s.emit e).sp = s.sp := rfl
@[simp] theorem State.emit_mem (s : State) (e : Event) : (s.emit e).mem = s.mem := rfl
@[simp] theorem State.emit_lvl (s : State) (e : Event) : (s.emit e).lvl = s.lvl := rfl
@[simp] theorem State.emit_own (s : State) (e : Event) : (s.emit e).own = s.own := rfl
@[simp] theorem State.emit_cont (s : State) (e : Event) : (s.emit e).cont = s.cont := rfl
@[simp] theorem State.emit_trace (s : State) (e : Event) : (s.emit e).trace = s.trace ++ [e] := rfl
@[simp] theorem State.emit_cfg (s : State) (e : Event) : (s.emit e).cfg = s.cfg := rfl
@[simp] theorem State.emit_host (s : State) (e : Event) : (s.emit e).host = s.host := rfl
@[simp] theorem State.emit_reads (s : State) (e : Event) : (s.emit e).reads = s.reads := rfl
@[simp] theorem State.emit_env (s : State) (e : Event) : (s.emit e).env = s.env := rfl
@[simp] theorem State.emit_epoch (s : State) (e : Event) : (s.emit e).epoch = s.epoch := rfl

/-! ### `State.countCall` -/

@[simp] theorem State.countCall_status (s : State) : (s.countCall).status = s.status := rfl
@[simp] theorem State.countCall_arg0 (s : State) : (s.countCall).arg0 = s.arg0 := rfl
@[simp] theorem State.countCall_arg1 (s : State) : (s.countCall).arg1 = s.arg1 := rfl
@[simp] theorem State.countCall_rdata (s : State) : (s.countCall).rdata = s.rdata := rfl
@[simp] theorem State.countCall_rraw (s : State) : (s.countCall).rraw = s.rraw := rfl
@[simp] theorem State.countCall_bright (s : State) : (s.countCall).bright = s.bright := rfl
@[simp] theorem State.countCall_nrails (s : State) : (s.countCall).nrails = s.nrails := rfl
@[simp] theorem State.countCall_tEn (s : State) : (s.countCall).tEn = s.tEn := rfl
@[simp] theorem State.countCall_tRstLo (s : State) : (s.countCall).tRstLo = s.tRstLo := rfl
@[simp] theorem State.countCall_tRstHi (s : State) : (s.countCall).tRstHi = s.tRstHi := rfl
@[simp] theorem State.countCall_ph1 (s : State) : (s.countCall).ph1 = s.ph1 := rfl
@[simp] theorem State.countCall_ph2 (s : State) : (s.countCall).ph2 = s.ph2 := rfl
@[simp] theorem State.countCall_ph3 (s : State) : (s.countCall).ph3 = s.ph3 := rfl
@[simp] theorem State.countCall_sp (s : State) : (s.countCall).sp = s.sp := rfl
@[simp] theorem State.countCall_mem (s : State) : (s.countCall).mem = s.mem := rfl
@[simp] theorem State.countCall_lvl (s : State) : (s.countCall).lvl = s.lvl := rfl
@[simp] theorem State.countCall_own (s : State) : (s.countCall).own = s.own := rfl
@[simp] theorem State.countCall_cont (s : State) : (s.countCall).cont = s.cont := rfl
@[simp] theorem State.countCall_trace (s : State) : (s.countCall).trace = s.trace := rfl
@[simp] theorem State.countCall_cfg (s : State) : (s.countCall).cfg = s.cfg := rfl
@[simp] theorem State.countCall_host (s : State) : (s.countCall).host = s.host := rfl
@[simp] theorem State.countCall_reads (s : State) : (s.countCall).reads = s.reads := rfl
@[simp] theorem State.countCall_env (s : State) : (s.countCall).env = { s.env with calls := s.env.calls + 1 } := rfl
@[simp] theorem State.countCall_epoch (s : State) : (s.countCall).epoch = s.epoch := rfl

/-! ### `State.reject` -/

@[simp] theorem State.reject_status (s : State) (e : ErrCode) : (s.reject e).status = { s.status with err := e } := rfl
@[simp] theorem State.reject_arg0 (s : State) (e : ErrCode) : (s.reject e).arg0 = s.arg0 := rfl
@[simp] theorem State.reject_arg1 (s : State) (e : ErrCode) : (s.reject e).arg1 = s.arg1 := rfl
@[simp] theorem State.reject_rdata (s : State) (e : ErrCode) : (s.reject e).rdata = s.rdata := rfl
@[simp] theorem State.reject_rraw (s : State) (e : ErrCode) : (s.reject e).rraw = s.rraw := rfl
@[simp] theorem State.reject_bright (s : State) (e : ErrCode) : (s.reject e).bright = s.bright := rfl
@[simp] theorem State.reject_nrails (s : State) (e : ErrCode) : (s.reject e).nrails = s.nrails := rfl
@[simp] theorem State.reject_tEn (s : State) (e : ErrCode) : (s.reject e).tEn = s.tEn := rfl
@[simp] theorem State.reject_tRstLo (s : State) (e : ErrCode) : (s.reject e).tRstLo = s.tRstLo := rfl
@[simp] theorem State.reject_tRstHi (s : State) (e : ErrCode) : (s.reject e).tRstHi = s.tRstHi := rfl
@[simp] theorem State.reject_ph1 (s : State) (e : ErrCode) : (s.reject e).ph1 = s.ph1 := rfl
@[simp] theorem State.reject_ph2 (s : State) (e : ErrCode) : (s.reject e).ph2 = s.ph2 := rfl
@[simp] theorem State.reject_ph3 (s : State) (e : ErrCode) : (s.reject e).ph3 = s.ph3 := rfl
@[simp] theorem State.reject_sp (s : State) (e : ErrCode) : (s.reject e).sp = s.sp := rfl
@[simp] theorem State.reject_mem (s : State) (e : ErrCode) : (s.reject e).mem = s.mem := rfl
@[simp] theorem State.reject_lvl (s : State) (e : ErrCode) : (s.reject e).lvl = s.lvl := rfl
@[simp] theorem State.reject_own (s : State) (e : ErrCode) : (s.reject e).own = s.own := rfl
@[simp] theorem State.reject_cont (s : State) (e : ErrCode) : (s.reject e).cont = s.cont := rfl
@[simp] theorem State.reject_trace (s : State) (e : ErrCode) : (s.reject e).trace = s.trace := rfl
@[simp] theorem State.reject_cfg (s : State) (e : ErrCode) : (s.reject e).cfg = s.cfg := rfl
@[simp] theorem State.reject_host (s : State) (e : ErrCode) : (s.reject e).host = s.host := rfl
@[simp] theorem State.reject_reads (s : State) (e : ErrCode) : (s.reject e).reads = s.reads := rfl
@[simp] theorem State.reject_env (s : State) (e : ErrCode) : (s.reject e).env = s.env := rfl
@[simp] theorem State.reject_epoch (s : State) (e : ErrCode) : (s.reject e).epoch = s.epoch := rfl

/-! ### `State.raise` -/

@[simp] theorem State.raise_status (s : State) (e : ErrCode) : (s.raise e).status = s.status.raised e (s.cont.map Cont.cmd) := rfl
@[simp] theorem State.raise_arg0 (s : State) (e : ErrCode) : (s.raise e).arg0 = s.arg0 := rfl
@[simp] theorem State.raise_arg1 (s : State) (e : ErrCode) : (s.raise e).arg1 = s.arg1 := rfl
@[simp] theorem State.raise_rdata (s : State) (e : ErrCode) : (s.raise e).rdata = s.rdata := rfl
@[simp] theorem State.raise_rraw (s : State) (e : ErrCode) : (s.raise e).rraw = s.rraw := rfl
@[simp] theorem State.raise_bright (s : State) (e : ErrCode) : (s.raise e).bright = s.bright := rfl
@[simp] theorem State.raise_nrails (s : State) (e : ErrCode) : (s.raise e).nrails = s.nrails := rfl
@[simp] theorem State.raise_tEn (s : State) (e : ErrCode) : (s.raise e).tEn = s.tEn := rfl
@[simp] theorem State.raise_tRstLo (s : State) (e : ErrCode) : (s.raise e).tRstLo = s.tRstLo := rfl
@[simp] theorem State.raise_tRstHi (s : State) (e : ErrCode) : (s.raise e).tRstHi = s.tRstHi := rfl
@[simp] theorem State.raise_ph1 (s : State) (e : ErrCode) : (s.raise e).ph1 = s.ph1 := rfl
@[simp] theorem State.raise_ph2 (s : State) (e : ErrCode) : (s.raise e).ph2 = s.ph2 := rfl
@[simp] theorem State.raise_ph3 (s : State) (e : ErrCode) : (s.raise e).ph3 = s.ph3 := rfl
@[simp] theorem State.raise_sp (s : State) (e : ErrCode) : (s.raise e).sp = s.sp := rfl
@[simp] theorem State.raise_mem (s : State) (e : ErrCode) : (s.raise e).mem = s.mem := rfl
@[simp] theorem State.raise_lvl (s : State) (e : ErrCode) : (s.raise e).lvl = s.lvl := rfl
@[simp] theorem State.raise_own (s : State) (e : ErrCode) : (s.raise e).own = s.own := rfl
@[simp] theorem State.raise_cont (s : State) (e : ErrCode) : (s.raise e).cont = none := rfl
@[simp] theorem State.raise_trace (s : State) (e : ErrCode) : (s.raise e).trace = s.trace := rfl
@[simp] theorem State.raise_cfg (s : State) (e : ErrCode) : (s.raise e).cfg = s.cfg := rfl
@[simp] theorem State.raise_host (s : State) (e : ErrCode) : (s.raise e).host = s.host := rfl
@[simp] theorem State.raise_reads (s : State) (e : ErrCode) : (s.raise e).reads = s.reads := rfl
@[simp] theorem State.raise_env (s : State) (e : ErrCode) : (s.raise e).env = s.env := rfl
@[simp] theorem State.raise_epoch (s : State) (e : ErrCode) : (s.raise e).epoch = s.epoch := rfl

/-! ### `State.failCall` -/

@[simp] theorem State.failCall_status (s : State) (p : Prim) (f : FailKind × Handle × ErrCode) : (s.failCall p f).status = s.status.raised f.2.2 (s.cont.map Cont.cmd) := rfl
@[simp] theorem State.failCall_arg0 (s : State) (p : Prim) (f : FailKind × Handle × ErrCode) : (s.failCall p f).arg0 = s.arg0 := rfl
@[simp] theorem State.failCall_arg1 (s : State) (p : Prim) (f : FailKind × Handle × ErrCode) : (s.failCall p f).arg1 = s.arg1 := rfl
@[simp] theorem State.failCall_rdata (s : State) (p : Prim) (f : FailKind × Handle × ErrCode) : (s.failCall p f).rdata = s.rdata := rfl
@[simp] theorem State.failCall_rraw (s : State) (p : Prim) (f : FailKind × Handle × ErrCode) : (s.failCall p f).rraw = s.rraw := rfl
@[simp] theorem State.failCall_bright (s : State) (p : Prim) (f : FailKind × Handle × ErrCode) : (s.failCall p f).bright = s.bright := rfl
@[simp] theorem State.failCall_nrails (s : State) (p : Prim) (f : FailKind × Handle × ErrCode) : (s.failCall p f).nrails = s.nrails := rfl
@[simp] theorem State.failCall_tEn (s : State) (p : Prim) (f : FailKind × Handle × ErrCode) : (s.failCall p f).tEn = s.tEn := rfl
@[simp] theorem State.failCall_tRstLo (s : State) (p : Prim) (f : FailKind × Handle × ErrCode) : (s.failCall p f).tRstLo = s.tRstLo := rfl
@[simp] theorem State.failCall_tRstHi (s : State) (p : Prim) (f : FailKind × Handle × ErrCode) : (s.failCall p f).tRstHi = s.tRstHi := rfl
@[simp] theorem State.failCall_ph1 (s : State) (p : Prim) (f : FailKind × Handle × ErrCode) : (s.failCall p f).ph1 = s.ph1 := rfl
@[simp] theorem State.failCall_ph2 (s : State) (p : Prim) (f : FailKind × Handle × ErrCode) : (s.failCall p f).ph2 = s.ph2 := rfl
@[simp] theorem State.failCall_ph3 (s : State) (p : Prim) (f : FailKind × Handle × ErrCode) : (s.failCall p f).ph3 = s.ph3 := rfl
@[simp] theorem State.failCall_sp (s : State) (p : Prim) (f : FailKind × Handle × ErrCode) : (s.failCall p f).sp = s.sp := rfl
@[simp] theorem State.failCall_mem (s : State) (p : Prim) (f : FailKind × Handle × ErrCode) : (s.failCall p f).mem = s.mem := rfl
@[simp] theorem State.failCall_lvl (s : State) (p : Prim) (f : FailKind × Handle × ErrCode) : (s.failCall p f).lvl = p.failedLevels s.lvl := rfl
@[simp] theorem State.failCall_own (s : State) (p : Prim) (f : FailKind × Handle × ErrCode) : (s.failCall p f).own = s.own := rfl
@[simp] theorem State.failCall_cont (s : State) (p : Prim) (f : FailKind × Handle × ErrCode) : (s.failCall p f).cont = none := rfl
@[simp] theorem State.failCall_trace (s : State) (p : Prim) (f : FailKind × Handle × ErrCode) : (s.failCall p f).trace = s.trace ++ [.fail f.1 f.2.1] := rfl
@[simp] theorem State.failCall_cfg (s : State) (p : Prim) (f : FailKind × Handle × ErrCode) : (s.failCall p f).cfg = s.cfg := rfl
@[simp] theorem State.failCall_host (s : State) (p : Prim) (f : FailKind × Handle × ErrCode) : (s.failCall p f).host = s.host := rfl
@[simp] theorem State.failCall_reads (s : State) (p : Prim) (f : FailKind × Handle × ErrCode) : (s.failCall p f).reads = s.reads := rfl
@[simp] theorem State.failCall_env (s : State) (p : Prim) (f : FailKind × Handle × ErrCode) : (s.failCall p f).env = s.env := rfl
@[simp] theorem State.failCall_epoch (s : State) (p : Prim) (f : FailKind × Handle × ErrCode) : (s.failCall p f).epoch = s.epoch := rfl

/-! ### `State.markBusyViol` -/

@[simp] theorem State.markBusyViol_status (s : State) : (s.markBusyViol).status = { s.status with busyViol := true } := rfl
@[simp] theorem State.markBusyViol_arg0 (s : State) : (s.markBusyViol).arg0 = s.arg0 := rfl
@[simp] theorem State.markBusyViol_arg1 (s : State) : (s.markBusyViol).arg1 = s.arg1 := rfl
@[simp] theorem State.markBusyViol_rdata (s : State) : (s.markBusyViol).rdata = s.rdata := rfl
@[simp] theorem State.markBusyViol_rraw (s : State) : (s.markBusyViol).rraw = s.rraw := rfl
@[simp] theorem State.markBusyViol_bright (s : State) : (s.markBusyViol).bright = s.bright := rfl
@[simp] theorem State.markBusyViol_nrails (s : State) : (s.markBusyViol).nrails = s.nrails := rfl
@[simp] theorem State.markBusyViol_tEn (s : State) : (s.markBusyViol).tEn = s.tEn := rfl
@[simp] theorem State.markBusyViol_tRstLo (s : State) : (s.markBusyViol).tRstLo = s.tRstLo := rfl
@[simp] theorem State.markBusyViol_tRstHi (s : State) : (s.markBusyViol).tRstHi = s.tRstHi := rfl
@[simp] theorem State.markBusyViol_ph1 (s : State) : (s.markBusyViol).ph1 = s.ph1 := rfl
@[simp] theorem State.markBusyViol_ph2 (s : State) : (s.markBusyViol).ph2 = s.ph2 := rfl
@[simp] theorem State.markBusyViol_ph3 (s : State) : (s.markBusyViol).ph3 = s.ph3 := rfl
@[simp] theorem State.markBusyViol_sp (s : State) : (s.markBusyViol).sp = s.sp := rfl
@[simp] theorem State.markBusyViol_mem (s : State) : (s.markBusyViol).mem = s.mem := rfl
@[simp] theorem State.markBusyViol_lvl (s : State) : (s.markBusyViol).lvl = s.lvl := rfl
@[simp] theorem State.markBusyViol_own (s : State) : (s.markBusyViol).own = s.own := rfl
@[simp] theorem State.markBusyViol_cont (s : State) : (s.markBusyViol).cont = s.cont := rfl
@[simp] theorem State.markBusyViol_trace (s : State) : (s.markBusyViol).trace = s.trace := rfl
@[simp] theorem State.markBusyViol_cfg (s : State) : (s.markBusyViol).cfg = s.cfg := rfl
@[simp] theorem State.markBusyViol_host (s : State) : (s.markBusyViol).host = s.host := rfl
@[simp] theorem State.markBusyViol_reads (s : State) : (s.markBusyViol).reads = s.reads := rfl
@[simp] theorem State.markBusyViol_env (s : State) : (s.markBusyViol).env = s.env := rfl
@[simp] theorem State.markBusyViol_epoch (s : State) : (s.markBusyViol).epoch = s.epoch := rfl

/-! ### `State.accept` -/

@[simp] theorem State.accept_status (s : State) (cmd : Command) (body : List Op) : (s.accept cmd body).status = { s.status with err := .ok } := rfl
@[simp] theorem State.accept_arg0 (s : State) (cmd : Command) (body : List Op) : (s.accept cmd body).arg0 = s.arg0 := rfl
@[simp] theorem State.accept_arg1 (s : State) (cmd : Command) (body : List Op) : (s.accept cmd body).arg1 = s.arg1 := rfl
@[simp] theorem State.accept_rdata (s : State) (cmd : Command) (body : List Op) : (s.accept cmd body).rdata = s.rdata := rfl
@[simp] theorem State.accept_rraw (s : State) (cmd : Command) (body : List Op) : (s.accept cmd body).rraw = s.rraw := rfl
@[simp] theorem State.accept_bright (s : State) (cmd : Command) (body : List Op) : (s.accept cmd body).bright = s.bright := rfl
@[simp] theorem State.accept_nrails (s : State) (cmd : Command) (body : List Op) : (s.accept cmd body).nrails = s.nrails := rfl
@[simp] theorem State.accept_tEn (s : State) (cmd : Command) (body : List Op) : (s.accept cmd body).tEn = s.tEn := rfl
@[simp] theorem State.accept_tRstLo (s : State) (cmd : Command) (body : List Op) : (s.accept cmd body).tRstLo = s.tRstLo := rfl
@[simp] theorem State.accept_tRstHi (s : State) (cmd : Command) (body : List Op) : (s.accept cmd body).tRstHi = s.tRstHi := rfl
@[simp] theorem State.accept_ph1 (s : State) (cmd : Command) (body : List Op) : (s.accept cmd body).ph1 = s.ph1 := rfl
@[simp] theorem State.accept_ph2 (s : State) (cmd : Command) (body : List Op) : (s.accept cmd body).ph2 = s.ph2 := rfl
@[simp] theorem State.accept_ph3 (s : State) (cmd : Command) (body : List Op) : (s.accept cmd body).ph3 = s.ph3 := rfl
@[simp] theorem State.accept_sp (s : State) (cmd : Command) (body : List Op) : (s.accept cmd body).sp = s.sp := rfl
@[simp] theorem State.accept_mem (s : State) (cmd : Command) (body : List Op) : (s.accept cmd body).mem = s.mem := rfl
@[simp] theorem State.accept_lvl (s : State) (cmd : Command) (body : List Op) : (s.accept cmd body).lvl = s.lvl := rfl
@[simp] theorem State.accept_own (s : State) (cmd : Command) (body : List Op) : (s.accept cmd body).own = s.own := rfl
@[simp] theorem State.accept_cont (s : State) (cmd : Command) (body : List Op) : (s.accept cmd body).cont = some ⟨cmd, none, body, none, s.status.err⟩ := rfl
@[simp] theorem State.accept_trace (s : State) (cmd : Command) (body : List Op) : (s.accept cmd body).trace = s.trace := rfl
@[simp] theorem State.accept_cfg (s : State) (cmd : Command) (body : List Op) : (s.accept cmd body).cfg = s.cfg := rfl
@[simp] theorem State.accept_host (s : State) (cmd : Command) (body : List Op) : (s.accept cmd body).host = s.host := rfl
@[simp] theorem State.accept_reads (s : State) (cmd : Command) (body : List Op) : (s.accept cmd body).reads = s.reads := rfl
@[simp] theorem State.accept_env (s : State) (cmd : Command) (body : List Op) : (s.accept cmd body).env = s.env := rfl
@[simp] theorem State.accept_epoch (s : State) (cmd : Command) (body : List Op) : (s.accept cmd body).epoch = s.epoch := rfl

/-! ### `State.complete` -/

@[simp] theorem State.complete_status (s : State) (cmd : Command) : (s.complete cmd).status = { s.status with lc := cmd.lifecycle s.status.lc } := rfl
@[simp] theorem State.complete_arg0 (s : State) (cmd : Command) : (s.complete cmd).arg0 = s.arg0 := rfl
@[simp] theorem State.complete_arg1 (s : State) (cmd : Command) : (s.complete cmd).arg1 = s.arg1 := rfl
@[simp] theorem State.complete_rdata (s : State) (cmd : Command) : (s.complete cmd).rdata = s.rdata := rfl
@[simp] theorem State.complete_rraw (s : State) (cmd : Command) : (s.complete cmd).rraw = s.rraw := rfl
@[simp] theorem State.complete_bright (s : State) (cmd : Command) : (s.complete cmd).bright = s.bright := rfl
@[simp] theorem State.complete_nrails (s : State) (cmd : Command) : (s.complete cmd).nrails = s.nrails := rfl
@[simp] theorem State.complete_tEn (s : State) (cmd : Command) : (s.complete cmd).tEn = s.tEn := rfl
@[simp] theorem State.complete_tRstLo (s : State) (cmd : Command) : (s.complete cmd).tRstLo = s.tRstLo := rfl
@[simp] theorem State.complete_tRstHi (s : State) (cmd : Command) : (s.complete cmd).tRstHi = s.tRstHi := rfl
@[simp] theorem State.complete_ph1 (s : State) (cmd : Command) : (s.complete cmd).ph1 = s.ph1 := rfl
@[simp] theorem State.complete_ph2 (s : State) (cmd : Command) : (s.complete cmd).ph2 = s.ph2 := rfl
@[simp] theorem State.complete_ph3 (s : State) (cmd : Command) : (s.complete cmd).ph3 = s.ph3 := rfl
@[simp] theorem State.complete_sp (s : State) (cmd : Command) : (s.complete cmd).sp = s.sp := rfl
@[simp] theorem State.complete_mem (s : State) (cmd : Command) : (s.complete cmd).mem = s.mem := rfl
@[simp] theorem State.complete_lvl (s : State) (cmd : Command) : (s.complete cmd).lvl = s.lvl := rfl
@[simp] theorem State.complete_own (s : State) (cmd : Command) : (s.complete cmd).own = s.own := rfl
@[simp] theorem State.complete_cont (s : State) (cmd : Command) : (s.complete cmd).cont = none := rfl
@[simp] theorem State.complete_trace (s : State) (cmd : Command) : (s.complete cmd).trace = s.trace := rfl
@[simp] theorem State.complete_cfg (s : State) (cmd : Command) : (s.complete cmd).cfg = s.cfg := rfl
@[simp] theorem State.complete_host (s : State) (cmd : Command) : (s.complete cmd).host = s.host := rfl
@[simp] theorem State.complete_reads (s : State) (cmd : Command) : (s.complete cmd).reads = s.reads := rfl
@[simp] theorem State.complete_env (s : State) (cmd : Command) : (s.complete cmd).env = s.env := rfl
@[simp] theorem State.complete_epoch (s : State) (cmd : Command) : (s.complete cmd).epoch = s.epoch := rfl

/-! ### `State.platformReset` -/

@[simp] theorem State.platformReset_status (s : State) : (s.platformReset).status = State.reset.status := rfl
@[simp] theorem State.platformReset_arg0 (s : State) : (s.platformReset).arg0 = State.reset.arg0 := rfl
@[simp] theorem State.platformReset_arg1 (s : State) : (s.platformReset).arg1 = State.reset.arg1 := rfl
@[simp] theorem State.platformReset_rdata (s : State) : (s.platformReset).rdata = State.reset.rdata := rfl
@[simp] theorem State.platformReset_rraw (s : State) : (s.platformReset).rraw = State.reset.rraw := rfl
@[simp] theorem State.platformReset_bright (s : State) : (s.platformReset).bright = State.reset.bright := rfl
@[simp] theorem State.platformReset_nrails (s : State) : (s.platformReset).nrails = State.reset.nrails := rfl
@[simp] theorem State.platformReset_tEn (s : State) : (s.platformReset).tEn = State.reset.tEn := rfl
@[simp] theorem State.platformReset_tRstLo (s : State) : (s.platformReset).tRstLo = State.reset.tRstLo := rfl
@[simp] theorem State.platformReset_tRstHi (s : State) : (s.platformReset).tRstHi = State.reset.tRstHi := rfl
@[simp] theorem State.platformReset_ph1 (s : State) : (s.platformReset).ph1 = State.reset.ph1 := rfl
@[simp] theorem State.platformReset_ph2 (s : State) : (s.platformReset).ph2 = State.reset.ph2 := rfl
@[simp] theorem State.platformReset_ph3 (s : State) : (s.platformReset).ph3 = State.reset.ph3 := rfl
@[simp] theorem State.platformReset_sp (s : State) : (s.platformReset).sp = State.reset.sp := rfl
@[simp] theorem State.platformReset_mem (s : State) : (s.platformReset).mem = State.reset.mem := rfl
@[simp] theorem State.platformReset_lvl (s : State) : (s.platformReset).lvl = State.reset.lvl := rfl
@[simp] theorem State.platformReset_own (s : State) : (s.platformReset).own = State.reset.own := rfl
@[simp] theorem State.platformReset_cont (s : State) : (s.platformReset).cont = State.reset.cont := rfl
@[simp] theorem State.platformReset_trace (s : State) : (s.platformReset).trace = State.reset.trace := rfl
@[simp] theorem State.platformReset_cfg (s : State) : (s.platformReset).cfg = s.cfg := rfl
@[simp] theorem State.platformReset_host (s : State) : (s.platformReset).host = s.host := rfl
@[simp] theorem State.platformReset_reads (s : State) : (s.platformReset).reads = s.reads := rfl
@[simp] theorem State.platformReset_env (s : State) : (s.platformReset).env = s.env := rfl
@[simp] theorem State.platformReset_epoch (s : State) : (s.platformReset).epoch = s.epoch + 1 := rfl

/-! ### `State.succeed` -/

@[simp] theorem State.succeed_status (s : State) (p : Prim) : (s.succeed p).status = s.status := by
  cases p <;> rfl
@[simp] theorem State.succeed_arg0 (s : State) (p : Prim) : (s.succeed p).arg0 = s.arg0 := by
  cases p <;> rfl
@[simp] theorem State.succeed_arg1 (s : State) (p : Prim) : (s.succeed p).arg1 = s.arg1 := by
  cases p <;> rfl
@[simp] theorem State.succeed_rdata (s : State) (p : Prim) : (s.succeed p).rdata = s.rdata := by
  cases p <;> rfl
@[simp] theorem State.succeed_rraw (s : State) (p : Prim) : (s.succeed p).rraw = s.rraw := by
  cases p <;> rfl
@[simp] theorem State.succeed_bright (s : State) (p : Prim) : (s.succeed p).bright = s.bright := by
  cases p <;> rfl
@[simp] theorem State.succeed_nrails (s : State) (p : Prim) : (s.succeed p).nrails = s.nrails := by
  cases p <;> rfl
@[simp] theorem State.succeed_tEn (s : State) (p : Prim) : (s.succeed p).tEn = s.tEn := by
  cases p <;> rfl
@[simp] theorem State.succeed_tRstLo (s : State) (p : Prim) : (s.succeed p).tRstLo = s.tRstLo := by
  cases p <;> rfl
@[simp] theorem State.succeed_tRstHi (s : State) (p : Prim) : (s.succeed p).tRstHi = s.tRstHi := by
  cases p <;> rfl
@[simp] theorem State.succeed_ph1 (s : State) (p : Prim) : (s.succeed p).ph1 = s.ph1 := by
  cases p <;> rfl
@[simp] theorem State.succeed_ph2 (s : State) (p : Prim) : (s.succeed p).ph2 = s.ph2 := by
  cases p <;> rfl
@[simp] theorem State.succeed_ph3 (s : State) (p : Prim) : (s.succeed p).ph3 = s.ph3 := by
  cases p <;> rfl
@[simp] theorem State.succeed_sp (s : State) (p : Prim) : (s.succeed p).sp = s.sp := by
  cases p <;> rfl
@[simp] theorem State.succeed_mem (s : State) (p : Prim) : (s.succeed p).mem = s.mem := by
  cases p <;> rfl
@[simp] theorem State.succeed_cont (s : State) (p : Prim) : (s.succeed p).cont = s.cont := by
  cases p <;> rfl
@[simp] theorem State.succeed_cfg (s : State) (p : Prim) : (s.succeed p).cfg = s.cfg := by
  cases p <;> rfl
@[simp] theorem State.succeed_host (s : State) (p : Prim) : (s.succeed p).host = s.host := by
  cases p <;> rfl
@[simp] theorem State.succeed_reads (s : State) (p : Prim) : (s.succeed p).reads = s.reads := by
  cases p <;> rfl
@[simp] theorem State.succeed_epoch (s : State) (p : Prim) : (s.succeed p).epoch = s.epoch := by
  cases p <;> rfl

/-- A collaborator call that succeeds appends exactly one event (R9). -/
theorem State.succeed_trace (s : State) (p : Prim) : ∃ e, (s.succeed p).trace = s.trace ++ [e] := by
  cases p <;> exact ⟨_, rfl⟩

end Sys2Proof.Machine
end

