-- ==== Sys2Proof/Laws/Ops.lean ====
section
/-! SUPPORT. The laws of the shared operations: everything each of them can do, said once. -/

namespace Sys2Proof.Machine

/-! ### Collaborator calls (R13) -/

theorem State.call_sure (s : State) (p : Prim) (done : State → State) (h : p.failure = none) :
    s.call p done = done (s.succeed p) := by
  simp [State.call, h]

theorem State.call_granted (s : State) (p : Prim) (done : State → State) (h : s.env.answer = true) :
    s.call p done = done (if p.failure = none then s.succeed p else s.countCall.succeed p) := by
  unfold State.call
  split <;> simp_all

theorem State.call_failed (s : State) (p : Prim) (done : State → State) (f : FailKind × Handle × ErrCode)
    (hf : p.failure = some f) (h : s.env.answer = false) : s.call p done = s.countCall.failCall p f := by
  simp [State.call, hf, h]

/-- A call succeeds without an answer, succeeds with one, or fails. -/
theorem State.call_cases (s : State) (p : Prim) (done : State → State) :
    (p.failure = none ∧ s.call p done = done (s.succeed p)) ∨
      (p.failure ≠ none ∧ s.env.answer = true ∧ s.call p done = done (s.countCall.succeed p)) ∨
      ∃ f, p.failure = some f ∧ s.env.answer = false ∧ s.call p done = s.countCall.failCall p f := by
  cases hf : p.failure with
  | none => exact .inl ⟨rfl, s.call_sure p done hf⟩
  | some f =>
    cases ha : s.env.answer with
    | true => exact .inr (.inl ⟨by simp, rfl, by rw [s.call_granted p done ha]; simp [hf]⟩)
    | false => exact .inr (.inr ⟨f, rfl, rfl, s.call_failed p done f hf ha⟩)

theorem State.failCall_eq (s : State) (p : Prim) (f : FailKind × Handle × ErrCode) :
    s.failCall p f = { s with
      trace := s.trace ++ [.fail f.1 f.2.1]
      lvl := p.failedLevels s.lvl
      status := s.status.raised f.2.2 (s.cont.map Cont.cmd)
      cont := none } := rfl

/-! ### Commands (R230, R232) -/

/-- A host command is ignored while busy, is rejected with STATE or with PARAM, or goes on to its body. -/
theorem State.command_cases (s : State) (stateOk paramOk : Bool) (body : Host.Outcome State Fault Refusal) :
    (s.busy = true ∧ s.command stateOk paramOk body = .next s.markBusyViol) ∨
      (s.busy = false ∧ stateOk = false ∧ s.command stateOk paramOk body = .next (s.reject .state)) ∨
      (s.busy = false ∧ stateOk = true ∧ paramOk = false ∧
        s.command stateOk paramOk body = .next (s.reject .param)) ∨
      (s.busy = false ∧ stateOk = true ∧ paramOk = true ∧ s.command stateOk paramOk body = body) := by
  unfold State.command
  cases s.busy <;> cases stateOk <;> cases paramOk <;> simp

theorem State.command_idle (s : State) (body : Host.Outcome State Fault Refusal) (h : s.cont = none) :
    s.command true true body = body := by
  simp [State.command, State.busy, h]

/-- A script or wire instruction that has a next state runs in a command between transfers. -/
theorem State.inCommand_cases {s t : State} {k : Cont → State} (h : s.inCommand k = .next t) :
    ∃ c, s.cont = some c ∧ c.xfer = none ∧ t = k c := by
  unfold State.inCommand at h
  split at h
  · cases h
  · split at h
    · cases h
    · cases h
      exact ⟨_, by assumption, by assumption, rfl⟩

theorem State.inCommand_eq {s : State} {c : Cont} (k : Cont → State) (hc : s.cont = some c) (hx : c.xfer = none) :
    s.inCommand k = .next (k c) := by
  simp [State.inCommand, hc, hx]

/-- Validation ends POWER_ON with its verdict: accepted, rejected, or stopped at an unwritten byte (R206, R49). -/
theorem State.afterValidation_cases {s t : State} {accepted : State → State}
    (h : s.afterValidation accepted = .next t) :
    (∃ pc, s.validateAll = .ok pc ∧ t = accepted { s with sp := BitVec.ofNat 16 pc }) ∨
      ∃ e pc, s.validateAll = .reject e pc ∧
        t = { s with sp := BitVec.ofNat 16 pc, status := { s.status with err := e } } := by
  unfold State.afterValidation at h
  split at h
  · cases h
    exact .inl ⟨_, by assumption, rfl⟩
  · cases h
    exact .inr ⟨_, _, by assumption, rfl⟩
  · cases h

/-! ### Host accesses (R231, R232) -/

theorem windowTarget_buffer {off : Nat} (h : bufferOffset off = true) : windowTarget off = .buffer := by
  simp [windowTarget, h]

theorem bufferOffset_of_windowTarget {off : Nat} (h : windowTarget off = .buffer) : bufferOffset off = true := by
  unfold windowTarget at h
  split at h
  · assumption
  · split at h <;> cases h

theorem windowTarget_reserved {off : Nat}
    (h : (0x03C ≤ off ∧ off ≤ 0x0FC) ∨ (0x200 ≤ off ∧ off ≤ 0xFFC)) : windowTarget off = .reserved := by
  have hb : ¬ bufferOffset off = true := by
    simp only [bufferOffset, Bool.or_eq_true, Bool.and_eq_true, decide_eq_true_eq]
    omega
  rw [windowTarget, if_neg hb]
  all_goals omega

theorem State.hostWrite_busy (s : State) (off : Offset) (d : Word) (h : s.busy = true) :
    s.hostWrite off d = s.markBusyViol := by
  simp [State.hostWrite, h]

/-- An idle write to a register, and a busy write anywhere, leaves the buffers' bytes alone. -/
theorem State.writeReg_mem (s : State) (d : Word) (r : HostReg) : (s.writeReg d r).mem = s.mem := by
  cases r <;> simp only [State.writeReg]
  split <;> rfl

/-- A register write leaves the controller alone: the status, the continuation, the lines and the trace. -/
theorem State.writeReg_controller (s : State) (d : Word) (r : HostReg) :
    (s.writeReg d r).status = s.status ∧ (s.writeReg d r).cont = s.cont ∧ (s.writeReg d r).lvl = s.lvl ∧
      (s.writeReg d r).own = s.own ∧ (s.writeReg d r).trace = s.trace ∧ (s.writeReg d r).env = s.env ∧
      (s.writeReg d r).cfg = s.cfg ∧ (s.writeReg d r).sp = s.sp := by
  cases r <;> simp only [State.writeReg, and_self]
  split <;> simp

/-- A host write leaves the controller alone but for BUSY_VIOL. -/
theorem State.hostWrite_controller (s : State) (off : Offset) (d : Word) :
    (∃ v, (s.hostWrite off d).status = { s.status with busyViol := v } ∧ (s.status.busyViol = true → v = true)) ∧
      (s.hostWrite off d).cont = s.cont ∧ (s.hostWrite off d).lvl = s.lvl ∧ (s.hostWrite off d).own = s.own ∧
      (s.hostWrite off d).trace = s.trace ∧ (s.hostWrite off d).env = s.env ∧ (s.hostWrite off d).cfg = s.cfg ∧
      (s.hostWrite off d).sp = s.sp := by
  unfold State.hostWrite
  split
  · exact ⟨⟨true, rfl, fun _ => rfl⟩, rfl, rfl, rfl, rfl, rfl, rfl, rfl⟩
  · split
    · obtain ⟨h1, h2, h3, h4, h5, h6, h7, h8⟩ := s.writeReg_controller d ‹_›
      exact ⟨⟨s.status.busyViol, by rw [h1], id⟩, h2, h3, h4, h5, h6, h7, h8⟩
    · exact ⟨⟨s.status.busyViol, rfl, id⟩, rfl, rfl, rfl, rfl, rfl, rfl, rfl⟩
    · exact ⟨⟨s.status.busyViol, rfl, id⟩, rfl, rfl, rfl, rfl, rfl, rfl, rfl⟩

end Sys2Proof.Machine
end

