-- ==== Sys2Proof/Laws/Exec.lean ====
section
/-! SUPPORT. Everything the meanings can do when they have a next state, said once for the host commands and once for
the script instructions. -/

namespace Sys2Proof.Machine

/-! ### Host commands -/

/-- A command and its body, as its rule gives them, under the conditions of R230's tables. -/
def State.acceptable (s : State) (cmd : Command) (body : List Op) : Prop :=
  match cmd with
  | .attach => s.status.lc = .detached ∧ s.nrails ≠ 0 ∧ body = attachBody s.nrails
  | .detach => s.status.lc = .attached ∧ body = detachBody s.own
  | .xferW9 => s.transferAllowed = true ∧ body = [.w9 s.argWord]
  | .xferR16 => s.transferAllowed = true ∧ body = [.read16]
  | .regWrite => s.transferAllowed = true ∧ body = writeRegister s.argId s.arg1
  | .regRead => s.transferAllowed = true ∧ body = readRegister s.cfg s.argId
  | .pktSend => s.transferAllowed = true ∧ ∃ bytes, body = sendCommandPacket s.cfg bytes
  | .powerOn => s.powerAllowed = true ∧ (∃ pc, s.validateAll = .ok pc) ∧ body = powerOnBody s

/-- The three things a host command can do: set BUSY_VIOL, set ERR (and, for POWER_ON, SP), or be accepted. -/
def State.commandResult (s t : State) : Prop :=
  (s.busy = true ∧ t = s.markBusyViol) ∨
    (s.cont = none ∧ ∃ e sp, t = { s with sp := sp, status := { s.status with err := e } }) ∨
    (s.cont = none ∧ ∃ cmd body sp, s.acceptable cmd body ∧ t = State.accept { s with sp := sp } cmd body)

theorem State.busy_false {s : State} (h : s.busy = false) : s.cont = none := by
  simpa [State.busy] using h

/-- A command whose body is accepted under its conditions. -/
theorem State.commandResult_of {s t : State} {stateOk paramOk : Bool} {cmd : Command} {body : List Op}
    (ha : stateOk = true → paramOk = true → s.acceptable cmd body)
    (h : s.command stateOk paramOk (.next (s.accept cmd body)) = .next t) : s.commandResult t := by
  obtain ⟨hb, he⟩ | ⟨hb, -, he⟩ | ⟨hb, -, -, he⟩ | ⟨hb, h1, h2, he⟩ :=
    s.command_cases stateOk paramOk (.next (s.accept cmd body)) <;> rw [he] at h <;> cases h
  · exact .inl ⟨hb, rfl⟩
  · exact .inr (.inl ⟨State.busy_false hb, _, s.sp, rfl⟩)
  · exact .inr (.inl ⟨State.busy_false hb, _, s.sp, rfl⟩)
  · exact .inr (.inr ⟨State.busy_false hb, cmd, body, s.sp, ha h1 h2, rfl⟩)

theorem execAttach_result {s t : State} (h : execAttach s = .next t) : s.commandResult t :=
  State.commandResult_of (cmd := .attach) (fun h1 h2 => ⟨by simpa using h1, by simpa using h2, rfl⟩) h

theorem execDetach_result {s t : State} (h : execDetach s = .next t) : s.commandResult t :=
  State.commandResult_of (cmd := .detach) (fun h1 _ => ⟨by simpa using h1, rfl⟩) h

theorem execXferW9_result {s t : State} (h : execXferW9 s = .next t) : s.commandResult t :=
  State.commandResult_of (cmd := .xferW9) (fun h1 _ => ⟨h1, rfl⟩) h

theorem execXferR16_result {s t : State} (h : execXferR16 s = .next t) : s.commandResult t :=
  State.commandResult_of (cmd := .xferR16) (fun h1 _ => ⟨h1, rfl⟩) h

theorem execRegWrite_result {s t : State} (h : execRegWrite s = .next t) : s.commandResult t :=
  State.commandResult_of (cmd := .regWrite) (fun h1 _ => ⟨h1, rfl⟩) h

theorem execRegRead_result {s t : State} (h : execRegRead s = .next t) : s.commandResult t :=
  State.commandResult_of (cmd := .regRead) (fun h1 _ => ⟨h1, rfl⟩) h

theorem execPktSend_result {s t : State} (h : execPktSend s = .next t) : s.commandResult t := by
  unfold execPktSend at h
  split at h
  · exact State.commandResult_of (cmd := .pktSend) (fun h1 _ => ⟨h1, _, rfl⟩) h
  · obtain ⟨hb, he⟩ | ⟨hb, -, he⟩ | ⟨hb, -, -, he⟩ | ⟨-, -, -, he⟩ :=
      s.command_cases s.transferAllowed s.packetCountOk (.fault (.unwrittenBuffer ‹_›)) <;> rw [he] at h <;> cases h
    · exact .inl ⟨hb, rfl⟩
    · exact .inr (.inl ⟨State.busy_false hb, _, s.sp, rfl⟩)
    · exact .inr (.inl ⟨State.busy_false hb, _, s.sp, rfl⟩)

theorem execPowerOn_result {s t : State} (h : execPowerOn s = .next t) : s.commandResult t := by
  unfold execPowerOn at h
  obtain ⟨hb, he⟩ | ⟨hb, -, he⟩ | ⟨-, -, hp, -⟩ | ⟨hb, h1, -, he⟩ :=
    s.command_cases s.powerAllowed true (s.afterValidation fun t => t.accept .powerOn (powerOnBody t))
  · rw [he] at h
    cases h
    exact .inl ⟨hb, rfl⟩
  · rw [he] at h
    cases h
    exact .inr (.inl ⟨State.busy_false hb, _, s.sp, rfl⟩)
  · cases hp
  · rw [he] at h
    obtain ⟨pc, hv, rfl⟩ | ⟨e, pc, -, rfl⟩ := State.afterValidation_cases h
    · exact .inr (.inr ⟨State.busy_false hb, .powerOn, _, _, ⟨h1, ⟨pc, hv⟩, rfl⟩, rfl⟩)
    · exact .inr (.inl ⟨State.busy_false hb, e, _, rfl⟩)

theorem execReservedHost_result {s t : State} {opc : Byte} (h : execReservedHost opc s = .next t) :
    s.commandResult t := by
  unfold execReservedHost at h
  split at h <;> cases h
  · exact .inl ⟨‹_›, rfl⟩
  · rename_i hb
    exact .inr (.inl ⟨State.busy_false (by simpa using hb), _, s.sp, rfl⟩)

/-- A word written to CMD: everything it can do. -/
theorem exec_decodeHost_result {s t : State} {d : Word} (h : exec (decodeHost d) s = .next t) :
    s.commandResult t := by
  unfold decodeHost at h
  split at h
  · exact execAttach_result h
  · exact execDetach_result h
  · exact execXferW9_result h
  · exact execXferR16_result h
  · exact execRegWrite_result h
  · exact execRegRead_result h
  · exact execPktSend_result h
  · exact execPowerOn_result h
  · exact execReservedHost_result (opc := opcOf d) h

/-! ### Script instructions -/

/-- The statements that script instructions put before the loop: wire words and waits. -/
def Op.inScript : Op → Bool
  | .frame _ _ => true
  | .prim (.wait _ _) => true
  | .prim (.acquire _) | .prim (.release _) | .prim (.setLine _ _) | .prim .getSdo | .prim (.railOn _)
  | .prim .blEnable | .prim (.blSet _) => false
  | .w9 _ | .read16 | .runPhase _ _ | .script | .advance _ | .setPState _ | .returnRead _ => false

theorem writeRegister_inScript (id : Byte) (value : Half) : (writeRegister id value).all Op.inScript = true := rfl

theorem delayOps_inScript (count : Half) (u : TimeUnit) : (delayOps count u).all Op.inScript = true := by
  unfold delayOps
  split <;> rfl

theorem sendCommandPacket_inScript (p : Params) (bytes : List Byte) :
    (sendCommandPacket p bytes).all Op.inScript = true := by
  simp [sendCommandPacket, writeRegister, Op.inScript]

/-- The three things an instruction fetched from the script can do: END leaves the phase; a reserved opcode ends the
command; any other puts its statements, its advance of pc and the loop before the statements left. -/
theorem exec_script_result {bs rest : List Byte} {i : Instr} {s t : State} (hd : decodeScript bs = .ok (i, rest))
    (h : exec i s = .next t) :
    (t = { s.reject .script with cont := none }) ∨
    ∃ c, s.cont = some c ∧ c.xfer = none ∧
      ((t = { s with cont := some { c with phase := none } }) ∨
       ∃ stmts n, stmts.all Op.inScript = true ∧
        t = { s with cont := some { c with ops := stmts ++ .advance n :: .script :: c.ops } }) := by
  have expanded : ∀ (stmts : List Op) (n : Nat), stmts.all Op.inScript = true → s.expand stmts n = .next t →
      ∃ c, s.cont = some c ∧ c.xfer = none ∧
        ((t = { s with cont := some { c with phase := none } }) ∨
         ∃ stmts n, stmts.all Op.inScript = true ∧
          t = { s with cont := some { c with ops := stmts ++ .advance n :: .script :: c.ops } }) := by
    intro stmts n hs he
    obtain ⟨c, hc, hx, rfl⟩ := State.inCommand_cases he
    exact ⟨c, hc, hx, .inr ⟨stmts, n, hs, rfl⟩⟩
  unfold decodeScript at hd
  split at hd
  · cases hd
  · split at hd
    · cases hd
      obtain ⟨c, hc, hx, rfl⟩ := State.inCommand_cases h
      exact .inr ⟨c, hc, hx, .inl rfl⟩
    · split at hd <;> cases hd
      exact .inr (expanded _ _ (writeRegister_inScript _ _) h)
    · split at hd
      · cases hd
      · split at hd
        · cases hd
        · split at hd <;> cases hd
          exact .inr (expanded _ _ (sendCommandPacket_inScript _ _) h)
    · split at hd <;> cases hd
      exact .inr (expanded _ _ (delayOps_inScript _ _) h)
    · split at hd <;> cases hd
      exact .inr (expanded _ _ (delayOps_inScript _ _) h)
    · cases hd
      cases h
      exact .inl rfl

/-- The same for an instruction fetched at pc in a phase. -/
theorem exec_fetched_result {u s t : State} {ph : Phase} {i : Instr} (hf : u.fetchScript ph = .ok i)
    (h : exec i s = .next t) :
    (t = { s.reject .script with cont := none }) ∨
    ∃ c, s.cont = some c ∧ c.xfer = none ∧
      ((t = { s with cont := some { c with phase := none } }) ∨
       ∃ stmts n, stmts.all Op.inScript = true ∧
        t = { s with cont := some { c with ops := stmts ++ .advance n :: .script :: c.ops } }) := by
  unfold State.fetchScript at hf
  split at hf
  · cases hf
  · split at hf <;> cases hf
    exact exec_script_result ‹_› h
  · cases hf
    exact exec_script_result ‹_› h

end Sys2Proof.Machine
end

