-- ==== Sys2Proof/Laws/PerInstr.lean ====
section
/-! SUPPORT. Statements made of every instruction, one lemma per constructor. -/

namespace Sys2Proof.Laws.CodeWidth

/-- How many bits an instruction's code has (R110, R122, R100, R101): 32 for a word written to CMD, eight times its
length in bytes for a script instruction, 9 for a wire word, 16 for a read transfer. -/
def bits (i : Instr) : Nat :=
  match i with
  | .attach | .detach | .xferW9 | .xferR16 | .regWrite | .regRead | .pktSend | .powerOn => 32
  | .reservedHost _ => 32
  | .endPhase => 8
  | .regw _ _ => 32
  | .pkt payload => 8 * (2 + payload.length)
  | .delayMs _ | .delayUs _ => 24
  | .reservedScript _ => 8
  | .wireCmd _ | .wireData _ | .wireDsi _ => 9
  | .read16 => 16

/-- The code of a well-formed instruction has the shape of its kind and the width of its row: a CMD word holds nothing
above its OPC, script bytes are as many as the row says and at most 257, and a wire code is one-hot. -/
def Statement (i : Instr) : Prop :=
  i.wf = true → ∀ p : Params,
    match encode p i with
    | .hostWrite d => bits i = 32 ∧ d.toNat < 256
    | .script bytes => bits i = 8 * bytes.length ∧ 1 ≤ bytes.length ∧ bytes.length ≤ maxScriptLength
    | .wire code _ => bits i = 9 ∧ (Role.ofCode code).isSome = true
    | .readTransfer => bits i = 16

theorem attach : Statement .attach := fun _ _ => ⟨rfl, by decide⟩
theorem detach : Statement .detach := fun _ _ => ⟨rfl, by decide⟩
theorem xferW9 : Statement .xferW9 := fun _ _ => ⟨rfl, by decide⟩
theorem xferR16 : Statement .xferR16 := fun _ _ => ⟨rfl, by decide⟩
theorem regWrite : Statement .regWrite := fun _ _ => ⟨rfl, by decide⟩
theorem regRead : Statement .regRead := fun _ _ => ⟨rfl, by decide⟩
theorem pktSend : Statement .pktSend := fun _ _ => ⟨rfl, by decide⟩
theorem powerOn : Statement .powerOn := fun _ _ => ⟨rfl, by decide⟩
theorem endPhase : Statement .endPhase := fun _ _ => ⟨rfl, by decide, by decide⟩
theorem regw (id : Byte) (value : Half) : Statement (.regw id value) := fun _ _ => by simp [encode, bits, maxScriptLength]

theorem pkt (payload : List Byte) : Statement (.pkt payload) := fun h _ => by
  simp only [Instr.wf, Bool.and_eq_true, decide_eq_true_eq] at h
  simp only [encode, bits, List.length_cons, maxScriptLength]
  omega

theorem delayMs (count : Half) : Statement (.delayMs count) := fun _ _ => by simp [encode, bits, maxScriptLength]
theorem delayUs (count : Half) : Statement (.delayUs count) := fun _ _ => by simp [encode, bits, maxScriptLength]
theorem reservedScript (op : Byte) : Statement (.reservedScript op) := fun _ _ => by simp [encode, bits, maxScriptLength]

theorem reservedHost (opc : Byte) : Statement (.reservedHost opc) := fun _ _ => by
  have := opc.isLt
  simp only [encode, bits, BitVec.toNat_setWidth]
  exact ⟨trivial, by omega⟩

theorem wireCmd (b : Byte) : Statement (.wireCmd b) := fun _ _ => ⟨rfl, rfl⟩
theorem wireData (b : Byte) : Statement (.wireData b) := fun _ _ => ⟨rfl, rfl⟩
theorem wireDsi (b : Byte) : Statement (.wireDsi b) := fun _ _ => ⟨rfl, rfl⟩
theorem read16 : Statement .read16 := fun _ _ => rfl

end Sys2Proof.Laws.CodeWidth
end

