-- ==== Sys2Proof/Laws/Step.lean ====
section
/-! SUPPORT. What one step can be, said once, and how runs compose. -/

namespace Sys2Proof.Machine

/-! ### Runs -/

@[simp] theorem runSteps_zero (s : State) : runSteps 0 s = .next s := rfl

theorem runSteps_succ {s t : State} (n : Nat) (h : step s = .next t) : runSteps (n + 1) s = runSteps n t := by
  simp [runSteps, h]

theorem runSteps_one {s t : State} (h : step s = .next t) : runSteps 1 s = .next t :=
  runSteps_succ 0 h

/-- A run of m steps and then of n. -/
theorem runSteps_add {s t : State} (m n : Nat) (h : runSteps m s = .next t) : runSteps (m + n) s = runSteps n t := by
  induction m generalizing s with
  | zero => cases h; simp
  | succ m ih =>
    rw [Nat.succ_add]
    simp only [runSteps] at h ⊢
    split <;> simp_all

theorem runSteps_trans {s t : State} {o : Host.Outcome State Fault Refusal} {k : Nat} (m n : Nat) (hk : k = m + n)
    (h1 : runSteps m s = .next t) (h2 : runSteps n t = o) : runSteps k s = o := by
  rw [hk, runSteps_add m n h1, h2]

/-! ### The outside's answers along a run -/

theorem Env.answerAt_afterCalls (e : Env) (n k : Nat) : (e.afterCalls n).answerAt k = e.answerAt (n + k) := by
  simp [Env.answerAt, Env.afterCalls, Nat.add_assoc]

theorem Env.grants_afterCalls {e : Env} {n m : Nat} (h : e.grants (n + m)) : (e.afterCalls n).grants m := by
  intro k hk
  rw [Env.answerAt_afterCalls]
  exact h _ (by omega)

theorem Env.grants_mono {e : Env} {n m : Nat} (h : e.grants n) (hm : m ≤ n) : e.grants m :=
  fun k hk => h k (by omega)

/-! ### Wire words and reads -/

/-- A wire word of a role starts the write transfer of its tagged byte (R165). -/
theorem exec_roleInstr (r : Role) (b : Byte) (s : State) :
    exec (r.instr b) s =
      s.inCommand fun c => { s with cont := some { c with xfer := some (Xfer.startWrite (wireWord s.cfg r b)) } } := by
  cases r <;> rfl

theorem exec_read16 (s : State) :
    exec .read16 s = s.inCommand fun c => { s with cont := some { c with xfer := some Xfer.startRead } } := rfl

/-! ### What comes next -/

theorem step_goto {s t : State} (h : s.next = .goto t) : step s = .next t := by
  simp [step, h, Next.outcome]

theorem step_run {s t : State} {i : Instr} (h : s.next = .run i t) : step s = exec i t := by
  simp [step, h, Next.outcome]

/-- With nothing pending from the host, the controller has the step. -/
theorem State.next_of_noHost {s : State} (h : s.host = []) : s.next = s.controllerNext := by
  simp [State.next, h]

theorem State.next_of_due {s : State} {act : HostAct} {rest : List HostSlot} (h : s.due act rest) :
    s.next = s.hostNext act rest := by
  simp [State.next, show s.host = _ from h]

theorem State.controllerNext_transfer {s : State} {c : Cont} {x : Xfer} (hc : s.cont = some c)
    (hx : c.xfer = some x) : s.controllerNext = .goto (s.transferStep c x) := by
  simp [State.controllerNext, hc, hx]

theorem State.controllerNext_statement {s : State} {c : Cont} (hc : s.cont = some c) (hx : c.xfer = none) :
    s.controllerNext = s.statementNext c := by
  simp [State.controllerNext, hc, hx]

/-! ### The controller's steps -/

/-- Every way the controller can have a next state: it waits, a transfer goes on, a command completes, a statement is
run, or an instruction is. -/
theorem State.controller_cases {s t : State} (h : s.controllerNext.outcome = .next t) :
    (s.cont = none ∧ t = s) ∨
    ∃ c, s.cont = some c ∧
      ((∃ x, c.xfer = some x ∧ t = s.transferStep c x) ∨
       (c.xfer = none ∧
        ((c.ops = [] ∧ t = s.complete c.cmd) ∨
         ∃ rest,
          (∃ p, c.ops = .prim p :: rest ∧ t = s.call p fun u => { u with cont := some { c with ops := rest } }) ∨
          (∃ w, c.ops = .w9 w :: rest ∧
            t = { s with cont := some { c with ops := rest, xfer := some (Xfer.startWrite w) } }) ∨
          (∃ r b, c.ops = .frame r b :: rest ∧
            t = { s with cont := some { c with ops := rest, xfer := some (Xfer.startWrite (wireWord s.cfg r b)) } }) ∨
          (c.ops = .read16 :: rest ∧
            t = { s with cont := some { c with ops := rest, xfer := some Xfer.startRead } }) ∨
          (∃ ph ptr, c.ops = .runPhase ph ptr :: rest ∧
            t = { s with sp := ptr, cont := some { c with phase := some ph, ops := .script :: rest } }) ∨
          (∃ i ph, c.ops = .script :: rest ∧ c.phase = some ph ∧ s.fetchScript ph = .ok i ∧
            exec i { s with cont := some { c with ops := rest } } = .next t) ∨
          (∃ n, c.ops = .advance n :: rest ∧
            t = { s with sp := s.sp + BitVec.ofNat 16 n, cont := some { c with ops := rest } }) ∨
          (∃ p, c.ops = .setPState p :: rest ∧
            t = { s with status := { s.status with pstate := p }, cont := some { c with ops := rest } }) ∨
          (∃ raw, c.ops = .returnRead raw :: rest ∧
            t = State.complete { s with rdata := swap16 raw, rraw := raw } c.cmd)))) := by
  unfold State.controllerNext at h
  split at h
  · rename_i hc
    cases h
    exact .inl ⟨hc, rfl⟩
  · rename_i c hc
    refine .inr ⟨c, hc, ?_⟩
    split at h
    · rename_i x hx
      cases h
      exact .inl ⟨x, hx, rfl⟩
    · rename_i hx
      refine .inr ⟨hx, ?_⟩
      unfold State.statementNext at h
      split at h
      · cases h
        exact .inl ⟨‹_›, rfl⟩
      all_goals refine .inr ?_
      · cases h
        exact ⟨_, .inl ⟨_, ‹_›, rfl⟩⟩
      · cases h
        exact ⟨_, .inr (.inl ⟨_, ‹_›, rfl⟩)⟩
      · rename_i r b rest ho
        refine ⟨rest, .inr (.inr (.inl ⟨r, b, ho, ?_⟩))⟩
        rw [Next.outcome, exec_roleInstr] at h
        obtain ⟨c', h1, -, rfl⟩ := State.inCommand_cases h
        cases h1
        rfl
      · rename_i rest ho
        refine ⟨rest, .inr (.inr (.inr (.inl ⟨ho, ?_⟩)))⟩
        rw [Next.outcome, exec_read16] at h
        obtain ⟨c', h1, -, rfl⟩ := State.inCommand_cases h
        cases h1
        rfl
      · cases h
        exact ⟨_, .inr (.inr (.inr (.inr (.inl ⟨_, _, ‹_›, rfl⟩))))⟩
      · rename_i rest ho
        unfold State.scriptNext at h
        split at h
        · cases h
        · split at h
          · exact ⟨rest, .inr (.inr (.inr (.inr (.inr (.inl ⟨_, _, ho, ‹_›, ‹_›, h⟩)))))⟩
          · cases h
      · cases h
        exact ⟨_, .inr (.inr (.inr (.inr (.inr (.inr (.inl ⟨_, ‹_›, rfl⟩))))))⟩
      · cases h
        exact ⟨_, .inr (.inr (.inr (.inr (.inr (.inr (.inr (.inl ⟨_, ‹_›, rfl⟩)))))))⟩
      · cases h
        exact ⟨_, .inr (.inr (.inr (.inr (.inr (.inr (.inr (.inr ⟨_, ‹_›, rfl⟩)))))))⟩

/-! ### Every step -/

/-- Every way a step can have a next state: a platform reset, a host command, another host write, a host read, or a
step of the controller from a state that differs in the host's list alone. -/
theorem step_cases {s t : State} (h : step s = .next t) :
    (∃ rest, s.due .reset rest ∧ t = State.platformReset { s with host := rest }) ∨
    (∃ d rest, s.due (.write 0 d) rest ∧ exec (decodeHost d) { s with host := rest } = .next t) ∨
    (∃ off d rest, s.due (.write off d) rest ∧ alignedOffset off = true ∧ off ≠ 0 ∧
      t = State.hostWrite { s with host := rest } off d) ∨
    (∃ rest w, t = { s with host := rest, reads := s.reads ++ [w] }) ∨
    ((∀ rest, ¬ s.due .reset rest) ∧ ∃ hs, (State.controllerNext { s with host := hs }).outcome = .next t) := by
  unfold step State.next at h
  split at h
  · rename_i hh
    refine .inr (.inr (.inr (.inr ⟨by simp [State.due, hh], s.host, h⟩)))
  · rename_i act rest hh
    unfold State.hostNext at h
    split at h
    · rename_i off d
      split at h
      · rename_i ha
        split at h
        · rename_i h0
          subst h0
          exact .inr (.inl ⟨d, rest, hh, h⟩)
        · rename_i h0
          cases h
          exact .inr (.inr (.inl ⟨off, d, rest, hh, ha, h0, rfl⟩))
      · cases h
    · split at h
      · cases h
        exact .inr (.inr (.inr (.inl ⟨rest, _, rfl⟩)))
      · cases h
    · cases h
    · split at h
      · exact .inr (.inr (.inr (.inr ⟨by simp [State.due, hh], s.host, h⟩)))
      · cases h
        exact .inr (.inr (.inr (.inl ⟨rest, _, rfl⟩)))
    · cases h
      exact .inl ⟨rest, hh, rfl⟩
  · rename_i n act rest hh
    exact .inr (.inr (.inr (.inr ⟨by simp [State.due, hh], ⟨n, act⟩ :: rest, h⟩)))

end Sys2Proof.Machine
end

