-- ==== Sys2Proof/Tests/Slice0.lean ====
section
/-! SUPPORT. Tests: the well-formedness checks, words written out from the spec's encodings, one step of each
instruction, and a witness for the hypotheses of every statement. Expected values come from the encodings of
30_encoding.md and the vectors of 95_test_vectors.md. -/

namespace Sys2Proof.Tests

open Sys2Proof.Machine

/-! ### Small states -/

/-- An outside that grants everything, with SDO at 0 for sixteen samples. -/
def granting : Env := ⟨List.replicate 400 true, 0, List.replicate 16 false, 0⟩

/-- The block after ATTACH with `NRAILS` = 1. -/
def attached : State :=
  { State.reset with
    status := ⟨.attached, .unpowered, false, .ok, false, false⟩
    own := handlesOf 1
    lvl := ⟨.one, .one, .zero, .unknown, .unknown⟩
    env := granting }

/-- A command in progress between transfers, with the statements left. -/
def running (cmd : Command) (ops : List Op) : State :=
  { attached with cont := some ⟨cmd, none, ops, none, .ok⟩ }

/-- POWER_ON in a phase, about to fetch at `pc`. -/
def inPhase (ph : Phase) : State :=
  { attached with cont := some ⟨.powerOn, some ph, [.script], none, .ok⟩ }

/-- The script bytes stand from script offset 0 on. -/
def withScript (s : State) (bytes : List Byte) : State := { s with mem := Mem.writeScript s.mem 0 bytes }

/-- The host has one action, due now. -/
def hostDoes (s : State) (act : HostAct) : State := { s with host := [⟨0, act⟩] }

/-- Something of the next state, if there is one. -/
def after {α : Type} (o : Host.Outcome State Fault Refusal) (f : State → α) : Option α :=
  match o with
  | .next s => some (f s)
  | .fault _ => none
  | .refused _ => none

/-- The statements left. -/
def opsOf (s : State) : List Op :=
  match s.cont with
  | some c => c.ops
  | none => []

/-- The transfer in progress. -/
def xferOf (s : State) : Option Xfer :=
  match s.cont with
  | some c => c.xfer
  | none => none

/-! ### Well-formedness -/

theorem test_wf_refuses_empty_packet : Instr.wf (.pkt []) = false := by decide

theorem test_wf_refuses_long_packet : Instr.wf (.pkt (List.replicate 256 0)) = false := by decide +kernel

theorem test_wf_refuses_listed_opcode_as_reserved :
    Instr.wf (.reservedScript 0x04) = false ∧ Instr.wf (.reservedScript 0x05) = true := by decide

theorem test_wf_refuses_listed_code_as_reserved :
    Instr.wf (.reservedHost 0x30) = false ∧ Instr.wf (.reservedHost 0x31) = true := by decide

/-! ### Words written out from the spec's encodings -/

/-- R110: OPC in bits 7:0; the bits above are ignored. -/
theorem test_decode_host_words :
    decodeHost 0b00000000000000000000000000000001 = .attach ∧
    decodeHost 0b00000000000000000000000000000010 = .detach ∧
    decodeHost 0b00000000000000000000000000010000 = .xferW9 ∧
    decodeHost 0b00000000000000000000000000010001 = .xferR16 ∧
    decodeHost 0b00000000000000000000000000100000 = .regWrite ∧
    decodeHost 0b00000000000000000000000000100001 = .regRead ∧
    decodeHost 0b00000000000000000000000000100010 = .pktSend ∧
    decodeHost 0b11111111111111111111111100110000 = .powerOn ∧
    decodeHost 0b00000000000000000000000000110001 = .reservedHost 0x31 := by decide

/-- R121: opcode, id, low byte, high byte; count, payload; low byte, high byte. -/
theorem test_decode_script_bytes :
    decodeScript [0b00000000] = .ok (.endPhase, []) ∧
    decodeScript [0b00000001, 0b10111010, 0b00010101, 0b10000000] = .ok (.regw 0xBA 0x8015, []) ∧
    decodeScript [0b00000010, 0b00000001, 0b00010001, 0b11111111] = .ok (.pkt [0x11], [0xFF]) ∧
    decodeScript [0b00000011, 0b01010000, 0b00000000] = .ok (.delayMs 80, []) ∧
    decodeScript [0b00000100, 0b00000000, 0b00000001] = .ok (.delayUs 256, []) ∧
    decodeScript [0b00000101] = .ok (.reservedScript 0x05, []) ∧
    decodeScript [0b00000010, 0b00000000] = .error .emptyPacket ∧
    decodeScript [0b00000010, 0b00000010, 0b00010001] = .error .truncated ∧
    decodeScript [0b00000001, 0b10111010, 0b00010101] = .error .truncated := by decide

/-- R100, R102, R103: the role's tag in bit 8, the byte in bits 7:0. -/
theorem test_decode_wire_words :
    decodeWire Config.defaults 0b001 0b010111100 = .ok (.wireCmd 0xBC) ∧
    decodeWire Config.defaults 0b010 0b100000011 = .ok (.wireData 0x03) ∧
    decodeWire Config.defaults 0b100 0b100010001 = .ok (.wireDsi 0x11) ∧
    decodeWire Config.defaults 0b001 0b110111100 = .error .tagMismatch ∧
    decodeWire Config.defaults 0b011 0b010111100 = .error .roleNotOneHot ∧
    decode Config.defaults .readTransfer = .ok .read16 := by decide

/-- The opcode table's rows, by their number of bits. -/
theorem test_table_words :
    decodeTableWord 32 0x30 = some .powerOn ∧ decodeTableWord 32 0x8015BA01 = some .attach ∧
    decodeTableWord 8 0x00 = some .endPhase ∧ decodeTableWord 9 0x0BC = some (.wireCmd 0xBC) ∧
    decodeTableWord 9 0x1BC = some (.wireData 0xBC) ∧ decodeTableWord 8 0x05 = some (.reservedScript 0x05) := by
  decide +kernel

/-! ### One step of each instruction -/

/-- R233: ATTACH starts with Acquire(CS). -/
theorem test_attach_starts :
    after (exec .attach State.reset) (fun s => (s.status.err, s.busy, (opsOf s).head?)) =
      some (.ok, true, some (.prim (.acquire (.line .cs)))) := by decide

/-- 95_test_vectors H6: NRAILS = 0 gives STATUS 0x600. -/
theorem test_attach_needs_a_rail :
    after (exec .attach { State.reset with nrails := 0 }) (fun s => s.statusWord) = some 0x600 := by decide

/-- R234, H27: DETACH releases in ATTACH order. -/
theorem test_detach_releases_in_order :
    after (exec .detach { attached with own := [.bl, .line .cs] }) opsOf =
      some [.prim (.release (.line .cs)), .prim (.release .bl)] := by decide

/-- H5: DETACH while Detached is STATE. -/
theorem test_detach_needs_attached :
    after (exec .detach State.reset) (fun s => s.statusWord) = some 0x500 := by decide

/-- R235: XFER_W9 takes nine bits of ARG0. -/
theorem test_xferW9_takes_nine_bits :
    after (exec .xferW9 { attached with arg0 := 0xFFBC }) opsOf = some [.w9 0x1BC] := by decide

/-- H3: XFER_W9 while Detached gives STATUS 0x500. -/
theorem test_xferW9_needs_attached :
    after (exec .xferW9 State.reset) (fun s => s.statusWord) = some 0x500 := by decide

/-- R232: the code of the command before, PARAM, shows in STATUS while the next command runs. -/
theorem test_status_while_busy :
    after (exec .xferR16 { attached with status := { attached.status with err := .param } })
      (fun s => (s.statusWord, s.status.err)) = some (0x603, .ok) := by decide

theorem test_xferR16_reads : after (exec .xferR16 attached) opsOf = some [.read16] := by decide

/-- M-vectors: no transfer after a line fault. -/
theorem test_xferR16_refused_after_line_fault :
    after (exec .xferR16 { attached with status := { attached.status with lineFault := true } })
      (fun s => s.status.err) = some .state := by decide

/-- R161: id, then the low byte, then the high byte. -/
theorem test_regWrite_low_byte_first :
    after (exec .regWrite { attached with arg0 := 0xB7, arg1 := 0x0342 }) opsOf =
      some [.frame .cmd 0xB7, .frame .data 0x42, .frame .data 0x03] := by decide

/-- R162: the handshake. -/
theorem test_regRead_handshake :
    after (exec .regRead { attached with arg0 := 0xB0 }) opsOf =
      some [.frame .cmd 0xD4, .frame .data 0xFA, .frame .data 0x00, .frame .cmd 0xB0, .frame .cmd 0xFA, .read16] := by
  decide

/-- R163: the length announcement, the drop word, the payload. -/
theorem test_pktSend_one_byte :
    after (exec .pktSend { attached with arg0 := 1, mem := [(0x100, 0x11)] }) opsOf =
      some [.frame .cmd 0xBC, .frame .data 0x01, .frame .data 0x00, .frame .cmd 0xBF, .frame .dsi 0x11] := by decide

/-- H18: a count of 257 gives STATUS 0x602. -/
theorem test_pktSend_count_too_large :
    after (exec .pktSend { attached with arg0 := 257 }) (fun s => s.statusWord) = some 0x602 := by decide

/-- R207: POWER_ON starts with SetLine(EN, 1). -/
theorem test_powerOn_starts :
    after (exec .powerOn (withScript attached [0x00])) (fun s => (s.busy, (opsOf s).head?)) =
      some (true, some (.prim (.setLine .en true))) := by decide +kernel

/-- V9: the PLL configuration after the latch gives STATUS 0x902 with SP at it. -/
theorem test_powerOn_order :
    after (exec .powerOn (withScript attached [0x01, 0xB9, 0x01, 0x00, 0x01, 0xBA, 0x15, 0x80, 0x00]))
      (fun s => (s.statusWord, s.sp)) = some (0x902, 4) := by decide +kernel

/-- R181: END leaves pc where it is and runs nothing more of the phase. -/
theorem test_end_returns :
    after (step (withScript (inPhase .one) [0x00])) (fun s => (opsOf s, s.sp, s.trace)) = some ([], 0, []) := by
  decide +kernel

theorem test_regw_expands :
    after (step (withScript (inPhase .one) [0x01, 0xB7, 0x42, 0x03])) opsOf =
      some [.frame .cmd 0xB7, .frame .data 0x42, .frame .data 0x03, .advance 4, .script] := by decide +kernel

/-- R183: pc moves by 2 + n. -/
theorem test_pkt_expands :
    after (step (withScript (inPhase .two) [0x02, 0x01, 0x11])) opsOf =
      some [.frame .cmd 0xBC, .frame .data 0x01, .frame .data 0x00, .frame .cmd 0xBF, .frame .dsi 0x11,
        .advance 3, .script] := by decide +kernel

/-- R184: the count is little-endian. -/
theorem test_delayMs_waits :
    after (exec (.delayMs 0x0203) (inPhase .two)) (fun s => (opsOf s).head?) =
      some (some (.prim (.wait 515 .ms))) := by decide

/-- R14: a delay of 0 is nothing. -/
theorem test_delayMs_zero : after (exec (.delayMs 0) (inPhase .two)) opsOf = some [.advance 3, .script, .script] := by
  decide

theorem test_delayUs_waits :
    after (exec (.delayUs 1) (inPhase .one)) (fun s => (opsOf s).head?) = some (some (.prim (.wait 1 .us))) := by
  decide

/-- V1: byte 05 at the start of phase 1 gives STATUS 0x802. -/
theorem test_reserved_script_opcode :
    after (exec .powerOn (withScript attached [0x05])) (fun s => (s.statusWord, s.sp)) = some (0x802, 0) := by
  decide +kernel

/-- H1: a reserved code gives STATUS 0x700. -/
theorem test_reserved_host_code :
    after (step (hostDoes State.reset (.write 0 0x00))) (fun s => s.statusWord) = some 0x700 := by decide

/-- R103: a command word has tag 0. -/
theorem test_wireCmd_tag :
    after (exec (.wireCmd 0xBC) (running .regWrite [])) xferOf = some (some ⟨.write 0x0BC, 8, .select⟩) := by decide

/-- R103: a data word has tag 1. -/
theorem test_wireData_tag :
    after (exec (.wireData 0x03) (running .regWrite [])) xferOf = some (some ⟨.write 0x103, 8, .select⟩) := by decide

theorem test_wireDsi_tag :
    after (exec (.wireDsi 0x11) (running .pktSend [])) xferOf = some (some ⟨.write 0x111, 8, .select⟩) := by decide

theorem test_read16_starts :
    after (exec .read16 (running .xferR16 [])) xferOf = some (some ⟨.read 0, 15, .select⟩) := by decide

/-- T5, T6, T8, T11: the values of raw bits. -/
theorem test_read_values :
    swap16 0x3412 = 0x1234 ∧ swap16 0x8001 = 0x0180 ∧ swap16 0x00FF = 0xFF00 ∧ swap16 0x2925 = 0x2529 := by decide

/-- H7, H9, H10, H16: what the writable registers hold after a write. -/
theorem test_register_writes :
    after (step (hostDoes State.reset (.write 0x01C 9))) (fun s => s.hostRead 0x01C) = some 1 ∧
    after (step (hostDoes State.reset (.write 0x018 101))) (fun s => s.hostRead 0x018) = some 100 ∧
    after (step (hostDoes State.reset (.write 0x018 0x80000032))) (fun s => s.hostRead 0x018) = some 100 ∧
    after (step (hostDoes State.reset (.write 0x020 0xFFFFFFFF))) (fun s => s.hostRead 0x020) = some 0x1FFFF := by
  decide

/-- H8: NRAILS is locked once attached. -/
theorem test_nrails_locked :
    after (step (hostDoes attached (.write 0x01C 5))) (fun s => s.hostRead 0x01C) = some 1 := by decide

/-- A placed word is the first instruction that runs after reset: one word of each encoding. -/
theorem test_fetch_words :
    after (step (State.reset.withFetchWord 32 0x01)) (fun s => (opsOf s).head?) =
      some (some (.prim (.acquire (.line .cs)))) ∧
    after (step (State.reset.withFetchWord 8 0x03)) opsOf = some [.advance 3, .script] ∧
    after (step (State.reset.withFetchWord 9 0x0BC)) xferOf = some (some ⟨.write 0x0BC, 8, .select⟩) := by
  decide +kernel

/-! ### Witnesses: for every statement that has hypotheses, states and operands that meet all of them -/

/-- An outside whose next answers are n times yes grants n calls. -/
theorem grants_replicate (n m : Nat) (h : m ≤ n) (ls : List Bool) (d : Nat) :
    (⟨List.replicate n true, 0, ls, d⟩ : Env).grants m := by
  intro k hk
  simp [Env.answerAt, show k < n by omega]

/-- A decidable property of every entry of a list, checked entry by entry. -/
theorem of_all {α : Type} {p : α → Prop} [DecidablePred p] (l : List α) (h : l.all (fun x => decide (p x)) = true) :
    ∀ x ∈ l, p x := by
  simpa [List.all_eq_true] using h

theorem granting_grants (m : Nat) (h : m ≤ 400) : granting.grants m := grants_replicate 400 m h _ _

/-- An outside that refuses every call of a short list. -/
def refusing : Env := ⟨[false], 0, [], 0⟩

/-- With nothing pending from the host, nothing is due. -/
theorem notDue {s : State} {act : HostAct} {rest : List HostSlot} (h : s.host = []) : ¬ s.due act rest := by
  simp [State.due, h]

theorem witness_ResetLeavesTheSpecifiedState :
    (∀ act rest, ([] : List HostSlot) ≠ ⟨0, act⟩ :: rest) ∧
      (∀ act rest, ([⟨1, .write 0 1⟩] : List HostSlot) ≠ ⟨0, act⟩ :: rest) := by simp

theorem witness_reserved_offsets :
    windowTarget (0x03C : Offset).toNat = .reserved ∧ windowTarget (0xFFC : Offset).toNat = .reserved := by decide

theorem witness_PlatformResetFromAnyState : (hostDoes (running .attach []) .reset).due .reset [] := rfl

theorem witness_BusyWritesAreIgnoredAndResultsReadAsBefore :
    (hostDoes (running .regWrite []) (.write 0x000 0x30)).busy = true ∧ alignedOffset 0x000 = true ∧
      (hostDoes (running .regWrite []) (.write 0x000 0x30)).due (.write 0x000 0x30) [] ∧
      (hostDoes (running .regWrite []) (.write 0x1FFC 7)).due (.write 0x1FFC 7) [] ∧ alignedOffset 0x1FFC = true :=
  ⟨rfl, rfl, rfl, rfl, rfl⟩

/-- A step that accepts a command after an error, and one in the middle of a command. -/
theorem witness_BusyWritesAreIgnoredAndResultsReadAsBefore_steps :
    (after (step { hostDoes attached (.write 0 0x11) with status := { attached.status with err := .param } })
      State.busy) = some true ∧
      (after (step (running .regRead [.frame .cmd 0xD4])) State.busy) = some true := by decide

theorem witness_HostReadHasNoSideEffect :
    alignedOffset 0x1FFC = true ∧ (hostDoes attached (.read 0x1FFC)).due (.read 0x1FFC) [] := ⟨rfl, rfl⟩

theorem witness_MisalignedOrNarrowAccessIsRefused :
    (alignedOffset 0x001 = false ∧ (hostDoes attached (.write 0x001 0)).due (.write 0x001 0) []) ∧
      (alignedOffset 0x1FFE = false ∧ (hostDoes attached (.read 0x1FFE)).due (.read 0x1FFE) []) ∧
      (hostDoes attached (.otherWidth 1 0x000)).due (.otherWidth 1 0x000) [] := ⟨⟨rfl, rfl⟩, ⟨rfl, rfl⟩, rfl⟩

theorem witness_ReservedAndReadOnlyOffsetsIgnoreWrites :
    (∀ off ∈ [(0x03C : Offset), 0x0FC, 0x200, 0xFFC, 0x004, 0x010, 0x014, 0x038],
      alignedOffset off = true ∧
        ((0x03C ≤ off.toNat ∧ off.toNat ≤ 0x0FC) ∨ (0x200 ≤ off.toNat ∧ off.toNat ≤ 0xFFC) ∨
          off ∈ [(0x004 : Offset), 0x010, 0x014, 0x038])) ∧
      (∀ off, (hostDoes attached (.write off 1)).busy = false ∧
        (hostDoes attached (.write off 1)).due (.write off 1) []) :=
  ⟨of_all _ (by decide), fun _ => ⟨rfl, rfl⟩⟩

theorem witness_RegisterWritesStoreTheDefinedBits :
    ∀ off ∈ [(0x008 : Offset), 0x00C, 0x020, 0x024, 0x028, 0x02C, 0x030, 0x034],
      (hostDoes attached (.write off 0xFFFFFFFF)).busy = false ∧
        (hostDoes attached (.write off 0xFFFFFFFF)).due (.write off 0xFFFFFFFF) [] :=
  fun _ _ => ⟨rfl, rfl⟩

theorem witness_BrightStoresALegalValue :
    ∀ d ∈ [(100 : Word), 101],
      (hostDoes attached (.write 0x018 d)).busy = false ∧ (hostDoes attached (.write 0x018 d)).due (.write 0x018 d) [] :=
  fun _ _ => ⟨rfl, rfl⟩

theorem witness_NrailsIsLockedOutsideDetached :
    ((hostDoes State.reset (.write 0x01C 7)).busy = false ∧ State.reset.status.lc = .detached) ∧
      ((hostDoes attached (.write 0x01C 7)).busy = false ∧ attached.status.lc ≠ .detached) ∧
      (hostDoes attached (.write 0x01C 7)).due (.write 0x01C 7) [] := ⟨⟨rfl, rfl⟩, ⟨rfl, by decide⟩, rfl⟩

theorem witness_BufferWordWriteReadsBack :
    (∀ off ∈ [(0x100 : Offset), 0x1FC, 0x1000, 0x1FFC],
      alignedOffset off = true ∧ ((0x100 ≤ off.toNat ∧ off.toNat < 0x200) ∨ 0x1000 ≤ off.toNat)) ∧
      (∀ off, (hostDoes attached (.write off 1)).busy = false ∧
        (hostDoes attached (.write off 1)).due (.write off 1) []) :=
  ⟨of_all _ (by decide), fun _ => ⟨rfl, rfl⟩⟩

theorem witness_StatusWordFields :
    attached.cont = none ∧ (running .regWrite []).cont = some ⟨.regWrite, none, [], none, .ok⟩ := ⟨rfl, rfl⟩

theorem witness_ReservedHostCodesAreRejected :
    (∀ d ∈ [(0x00 : Word), 0x03, 0x0F, 0x12, 0x1F, 0x23, 0x2F, 0x31, 0xFFFFFFFF],
      listedHostCode (d.extractLsb' 0 8) = false) ∧
      (∀ d, (hostDoes attached (.write 0 d)).busy = false ∧ (hostDoes attached (.write 0 d)).due (.write 0 d) []) :=
  ⟨of_all _ (by decide), fun _ => ⟨rfl, rfl⟩⟩

theorem witness_CommandsOutsideTheirConditionsAreRejected :
    (attached.busy = false ∧ attached.status.lc ≠ .detached) ∧
      (State.reset.busy = false ∧ State.reset.status.lc ≠ .attached) ∧
      (State.reset.status.lc = .detached ∧ { State.reset with nrails := 0 }.busy = false) ∧
      (attached.status.lc = .attached ∧ attached.status.lineFault = false ∧
        (∀ n, { attached with arg0 := n }.busy = false) ∧
        ∀ n ∈ [(0 : Half), 257], n.toNat = 0 ∨ 256 < n.toNat) :=
  ⟨⟨rfl, by decide⟩, ⟨rfl, by decide⟩, ⟨rfl, rfl⟩, rfl, rfl, fun _ => rfl, of_all _ (by decide)⟩

theorem witness_AttachAndDetachAreAccepted :
    (State.reset.cont = none ∧ State.reset.status.lc = .detached ∧ State.reset.nrails ≠ 0) ∧
      (attached.cont = none ∧ attached.status.lc = .attached) := by decide

theorem witness_TransferCommandsAreAccepted : attached.idleAttached := ⟨rfl, rfl⟩

/-- n bytes 0 from an offset on. -/
def zeros : Nat → Nat → Mem
  | 0, _ => []
  | n + 1, a => (a, 0) :: zeros n (a + 1)

theorem read_zeros (n a k : Nat) (h : k < n) : Mem.read (zeros n a) (a + k) = some 0 := by
  induction n generalizing a k with
  | zero => omega
  | succ n ih =>
    cases k with
    | zero => simp [zeros, Mem.read]
    | succ k =>
      have e := ih (a + 1) k (by omega)
      rw [show a + 1 + k = a + (k + 1) by omega] at e
      simp [zeros, Mem.read, e]

/-- An attached block with a packet of 256 written bytes. -/
def fullPacket : State := { attached with arg0 := 256, mem := zeros 256 0x100 }

theorem witness_PktSendIsAccepted :
    fullPacket.idleAttached ∧ (List.replicate 256 (0 : Byte)).length = fullPacket.arg0.toNat ∧
      1 ≤ fullPacket.arg0.toNat ∧ fullPacket.arg0.toNat ≤ 256 ∧
      (∀ k (h : k < (List.replicate 256 (0 : Byte)).length),
        Mem.read fullPacket.mem (0x100 + k) = some (List.replicate 256 (0 : Byte))[k]) := by
  refine ⟨⟨rfl, rfl⟩, List.length_replicate, by decide, by decide, ?_⟩
  intro k h
  rw [List.length_replicate] at h
  rw [List.getElem_replicate]
  exact read_zeros 256 0x100 k h

/-- An attached block with a packet of one written byte. -/
def onePacket : State := { attached with arg0 := 1, mem := [(0x100, 0x11)] }

theorem witness_PktSendIsAccepted_one :
    onePacket.idleAttached ∧ [(0x11 : Byte)].length = onePacket.arg0.toNat ∧ 1 ≤ onePacket.arg0.toNat ∧
      onePacket.arg0.toNat ≤ 256 ∧ Mem.read onePacket.mem (0x100 + 0) = some 0x11 := ⟨⟨rfl, rfl⟩, by decide⟩

/-- A phase that starts with a write of the PLL latch and a delay: the next instruction is at offset 7. -/
def lead : List Instr := [.regw 0xB9 0x0001, .delayUs 5]

/-- The bytes of `lead`, with others after them. -/
def afterLead (bytes : List Byte) : State := withScript attached ([0x01, 0xB9, 0x01, 0x00, 0x04, 0x05, 0x00] ++ bytes)

theorem pllOrdered_of_no_cfg {p : Params} {is : List Instr} (h : ∀ u, .regw p.regPllCfg u ∉ is) : pllOrdered p is := by
  rintro before after v rfl u hu
  exact h u (by simp [hu])

theorem lead_legal (ph : Phase) (bytes : List Byte)
    (h : ∀ a ∈ [(0, (0x01 : Byte)), (1, 0xB9), (4, 0x04)], scriptByte (afterLead bytes).mem a.1 = some a.2) :
    (afterLead bytes).legalUpTo ph 0 lead := by
  refine ⟨⟨trivial, by decide, ?_, trivial, by decide, ?_, trivial⟩, pllOrdered_of_no_cfg ?_,
    show Config.defaults.regPllCfg ≠ Config.defaults.regPllCtrl by decide⟩
  · intro k hk
    match k, hk with
    | 0, _ => exact h (0, 0x01) (by decide)
    | 1, _ => exact h (1, 0xB9) (by decide)
  · intro k hk
    match k, hk with
    | 0, _ => exact h (4, 0x04) (by decide)
  · intro u
    simp [lead, State.reset, attached, afterLead, withScript, Config.defaults]

/-- Any phase is legal up to its first instruction. -/
theorem bare_legal (m : Mem) (ph : Phase) (ptr : Half) : { attached with mem := m }.legalUpTo ph ptr [] :=
  ⟨trivial, pllOrdered_of_no_cfg fun _ => List.not_mem_nil,
    show Config.defaults.regPllCfg ≠ Config.defaults.regPllCtrl by decide⟩

theorem witness_UnwrittenBufferByteFaults :
    { onePacket with arg0 := 2 }.idleAttached ∧ 1 ≤ (2 : Half).toNat ∧ (2 : Half).toNat ≤ 256 ∧ 1 < (2 : Half).toNat ∧
      Mem.read onePacket.mem (0x100 + 1) = none := ⟨⟨rfl, rfl⟩, by decide⟩

/-- An opcode, an id and a count that were never written, after two instructions that pass. -/
theorem witness_UnwrittenBufferByteFaults_validation :
    (∀ ph, (afterLead []).legalUpTo ph 0 lead ∧ (afterLead [0x01]).legalUpTo ph 0 lead ∧
      (afterLead [0x02]).legalUpTo ph 0 lead) ∧ offsetAfter (0 : Half).toNat lead = 7 ∧
      scriptByte (afterLead []).mem 7 = none ∧
      (scriptByte (afterLead [0x01]).mem 7 = some 0x01 ∧ scriptByte (afterLead [0x01]).mem (7 + 1) = none) ∧
      (scriptByte (afterLead [0x02]).mem 7 = some 0x02 ∧ scriptByte (afterLead [0x02]).mem (7 + 1) = none) :=
  ⟨fun ph => ⟨lead_legal ph _ (by decide), lead_legal ph _ (by decide), lead_legal ph _ (by decide)⟩, by decide⟩

/-- An attached block whose three phases are the END at script offset 0. -/
def emptyPhases : State := withScript attached [0x00]

/-- An unwritten byte in phase 1, in phase 2 and in phase 3. -/
theorem witness_UnwrittenBufferByteFaults_powerOn :
    (∀ s ∈ [attached, { emptyPhases with ph2 := 5 }, { emptyPhases with ph3 := 0xFFF }],
      s.cont = none ∧ s.powerAllowed = true) ∧
      validate attached.cfg attached.mem .one 0 = .unwritten 0 ∧
      (validate emptyPhases.cfg emptyPhases.mem .one 0 = .ok 0 ∧
        validate emptyPhases.cfg emptyPhases.mem .two 5 = .unwritten 5) ∧
      (validate emptyPhases.cfg emptyPhases.mem .two 0 = .ok 0 ∧
        validate emptyPhases.cfg emptyPhases.mem .three 0xFFF = .unwritten 0xFFF) :=
  ⟨of_all _ (by decide), by decide +kernel⟩

theorem witness_PowerOnIsAccepted :
    emptyPhases.cont = none ∧ emptyPhases.powerAllowed = true ∧ emptyPhases.validateAll = .ok 0 := by decide +kernel

theorem witness_PowerOnRejectedByValidation :
    (validate Config.defaults (withScript attached [0x05]).mem .one 0 = .reject .script 0) ∧
      (validate Config.defaults (withScript attached [0x00, 0x05]).mem .one 0 = .ok 0 ∧
        validate Config.defaults (withScript attached [0x00, 0x05]).mem .two 1 = .reject .script 1) ∧
      (validate Config.defaults emptyPhases.mem .two 0 = .ok 0 ∧
        validate Config.defaults emptyPhases.mem .three 0x1000 = .reject .script 0x1000) ∧
      emptyPhases.cont = none ∧ emptyPhases.powerAllowed = true := by decide +kernel

theorem witness_PowerOnRejectedByValidation_starts :
    after (exec .powerOn emptyPhases) State.busy = some true := by decide +kernel

theorem witness_IllegalScriptInstructionsAreRejected :
    ∀ op ∈ [(0x05 : Byte), 0xFF],
      (withScript attached [op]).cont = none ∧ (withScript attached [op]).powerAllowed = true ∧
        (withScript attached [op]).ph1.toNat < 4096 ∧
        scriptByte (withScript attached [op]).mem (withScript attached [op]).ph1.toNat = some op ∧ 5 ≤ op.toNat :=
  of_all _ (by decide)

/-- A pointer of 4096, and the instruction after two that pass: reserved, a packet of no byte in phase 2, a packet in
phase 1, and the PLL configuration after the latch. -/
theorem witness_IllegalScriptInstructionsAreRejected_cases :
    (attached.legalUpTo .one 0x1000 [] ∧ 4096 ≤ offsetAfter (0x1000 : Half).toNat []) ∧
      offsetAfter (0 : Half).toNat lead = 7 ∧
      (∀ op ∈ [(0x05 : Byte), 0xFF], scriptByte (afterLead [op]).mem 7 = some op ∧ 5 ≤ op.toNat) ∧
      ((afterLead [0x02, 0x00]).legalUpTo .two 0 lead ∧ scriptByte (afterLead [0x02, 0x00]).mem 7 = some 0x02 ∧
        scriptByte (afterLead [0x02, 0x00]).mem (7 + 1) = some 0) ∧
      ((afterLead [0x02]).legalUpTo .one 0 lead ∧ scriptByte (afterLead [0x02]).mem 7 = some 0x02) ∧
      ((afterLead [0x01, 0xBA]).legalUpTo .one 0 lead ∧ scriptByte (afterLead [0x01, 0xBA]).mem 7 = some 0x01 ∧
        scriptByte (afterLead [0x01, 0xBA]).mem (7 + 1) = some (afterLead [0x01, 0xBA]).cfg.regPllCfg ∧
        .regw (afterLead [0x01, 0xBA]).cfg.regPllCtrl 0x0001 ∈ lead) :=
  ⟨⟨bare_legal _ _ _, by decide⟩, by decide, of_all _ (by decide), ⟨lead_legal _ _ (by decide), by decide⟩,
    ⟨lead_legal _ _ (by decide), by decide⟩, ⟨lead_legal _ _ (by decide), by decide⟩⟩

/-- The first offset at which each instruction is cut off by the end of the script, and an instruction that ends with
it. -/
theorem witness_IllegalScriptInstructionsAreRejected_truncated :
    (∀ m ph ptr, { attached with mem := m }.legalUpTo ph ptr []) ∧
      (scriptByte [(0x1FFD, 0x01)] 0xFFD = some 0x01 ∧ 4096 ≤ 0xFFD + 3) ∧
      (scriptByte [(0x1FFF, 0x02)] 0xFFF = some 0x02 ∧ 4096 ≤ 0xFFF + 1) ∧
      (scriptByte [(0x1FFD, 0x02), (0x1FFE, 0x02)] 0xFFD = some 0x02 ∧
        scriptByte [(0x1FFD, 0x02), (0x1FFE, 0x02)] (0xFFD + 1) = some 0x02 ∧
        4096 ≤ 0xFFD + 1 + (0x02 : Byte).toNat) ∧
      (scriptByte [(0x1FFE, 0x04)] 0xFFE = some 0x04 ∧ 4096 ≤ 0xFFE + 2) ∧
      offsetAfter (0xFFC : Half).toNat [.regw 0xB7 0] = 4096 := ⟨bare_legal, by decide⟩

/-- V11: a phase that writes the latch last. -/
theorem witness_ValidatedPhaseIsPllOrdered :
    validate Config.defaults
      (withScript attached [0x01, 0xBA, 0x15, 0x80, 0x01, 0xB9, 0x01, 0x00, 0x01, 0xB9, 0x00, 0x00, 0x00]).mem
      .one 0 = .ok 12 := by decide +kernel

theorem witness_ValidationPassesExactlyTheLegalPhases :
    validate Config.defaults (withScript attached [0x02, 0x01, 0x11, 0x03, 0x05, 0x00, 0x00]).mem .two 0 = .ok 6 ∧
      validate Config.defaults (withScript attached [0x01, 0xB7, 0x42, 0x03, 0x00]).mem .one 0 = .ok 4 ∧
      validate Config.defaults (withScript attached [0x04, 0x05, 0x00, 0x00]).mem .three 0 = .ok 3 := by
  decide +kernel

/-- Two instructions and an END, and an END at the last offset of the script. -/
theorem witness_ValidationPassesExactlyTheLegalPhases_converse :
    (∀ ph, (afterLead [0x00]).legalUpTo ph 0 lead) ∧ offsetAfter (0 : Half).toNat lead = 7 ∧
      scriptByte (afterLead [0x00]).mem 7 = some 0x00 ∧
      (∀ ph, { attached with mem := [(0x1FFF, 0x00)] }.legalUpTo ph 0xFFF []) ∧
      scriptByte [(0x1FFF, 0x00)] (offsetAfter (0xFFF : Half).toNat []) = some 0x00 :=
  ⟨fun ph => lead_legal ph _ (by decide), by decide, by decide, fun ph => bare_legal _ ph _, by decide⟩

/-- POWER_ON at an END of phase 2, with a write of PSTATE after it. -/
def atEnd : State :=
  withScript { attached with cont := some ⟨.powerOn, some .two, [.script, .setPState .panelScripted], none, .ok⟩ } [0x00]

/-- POWER_ON at an END of phase 3, with the backlight calls and the write of PSTATE after it. -/
def atLastEnd : State :=
  withScript
    { attached with
      cont := some ⟨.powerOn, some .three,
        [.script, .prim .blEnable, .prim (.blSet 100), .setPState .displayOn], none, .ok⟩ } [0x00]

theorem witness_EndReturnsFromThePhase :
    atEnd.host = [] ∧ atEnd.cont = some ⟨.powerOn, some .two, [.script, .setPState .panelScripted], none, .ok⟩ ∧
      atEnd.sp.toNat < 4096 ∧ scriptByte atEnd.mem atEnd.sp.toNat = some 0x00 := by decide

theorem witness_EndReturnsFromThePhase_three :
    atLastEnd.host = [] ∧
      atLastEnd.cont = some ⟨.powerOn, some .three,
        [.script, .prim .blEnable, .prim (.blSet 100), .setPState .displayOn] ++ [], none, .ok⟩ ∧
      atLastEnd.sp.toNat < 4096 ∧ scriptByte atLastEnd.mem atLastEnd.sp.toNat = some 0x00 ∧
      atLastEnd.env.grants 2 := ⟨rfl, rfl, by decide, by decide, granting_grants 2 (by decide)⟩

theorem witness_ScriptInstructionsExpand :
    (inPhase .two).cont = some ⟨.powerOn, some .two, [.script], none, .ok⟩ ∧
      (List.replicate 255 (0 : Byte)).length ≤ 255 := by decide +kernel

/-- The delay of 0 and the longest, at the last offset where one fits. -/
theorem witness_DelayInstructionsRun :
    ∀ x ∈ [((0x03 : Byte), (0x00 : Byte), TimeUnit.ms), (0x04, 0xFF, TimeUnit.us)],
      let s := { inPhase .one with sp := 0xFFD, mem := [(0x1FFD, x.1), (0x1FFE, x.2.1), (0x1FFF, x.2.1)] }
      s.host = [] ∧ s.cont = some ⟨.powerOn, some .one, [.script], none, .ok⟩ ∧ s.sp.toNat + 2 < 4096 ∧
        scriptByte s.mem s.sp.toNat = some x.1 ∧ scriptByte s.mem (s.sp.toNat + 1) = some x.2.1 ∧
        scriptByte s.mem (s.sp.toNat + 2) = some x.2.1 ∧
        ((x.1 = 0x03 ∧ x.2.2 = .ms) ∨ (x.1 = 0x04 ∧ x.2.2 = .us)) := by decide

theorem witness_RegwRuns :
    let s := withScript (inPhase .one) [0x01, 0xB7, 0x42, 0x03]
    s.host = [] ∧ s.cont = some ⟨.powerOn, some .one, [.script], none, .ok⟩ ∧
      s.fetchScript .one = .ok (.regw 0xB7 0x0342) ∧ s.env.grants 87 :=
  ⟨rfl, rfl, by decide +kernel, granting_grants 87 (by decide)⟩

theorem witness_PktRuns :
    let s := withScript (inPhase .two) [0x02, 0x01, 0x11]
    s.host = [] ∧ s.cont = some ⟨.powerOn, some .two, [.script], none, .ok⟩ ∧
      s.fetchScript .two = .ok (.pkt [0x11]) ∧ s.env.grants (29 * (4 + [(0x11 : Byte)].length)) :=
  ⟨rfl, rfl, by decide +kernel, granting_grants 145 (by decide)⟩

theorem witness_WireInstructionsStartTheirTransfer :
    (running .regWrite []).cont = some ⟨.regWrite, none, [], none, .ok⟩ := rfl

/-- A command inside a transfer. -/
def transferring (x : Xfer) : State := { attached with cont := some ⟨.regRead, none, [], some x, .ok⟩ }

theorem witness_WriteTransferEmitsItsEvents :
    (transferring ⟨.write 0x1BC, 8, .select⟩).host = [] ∧
      (transferring ⟨.write 0x1BC, 8, .select⟩).cont =
        some ⟨.regRead, none, [], some ⟨.write 0x1BC, 8, .select⟩, .ok⟩ ∧
      (transferring ⟨.write 0x1BC, 8, .select⟩).env.grants 29 := ⟨rfl, rfl, granting_grants 29 (by decide)⟩

theorem witness_ReadTransferEmitsItsEvents :
    (transferring ⟨.read 0, 15, .select⟩).host = [] ∧
      (transferring ⟨.read 0, 15, .select⟩).cont = some ⟨.regRead, none, [], some ⟨.read 0, 15, .select⟩, .ok⟩ ∧
      (transferring ⟨.read 0, 15, .select⟩).env.grants 50 := ⟨rfl, rfl, granting_grants 50 (by decide)⟩

theorem witness_ReadValueIsByteSwapped :
    ∀ cmd ∈ [Command.xferR16, .regRead],
      (running cmd [.returnRead 0x2925]).host = [] ∧
        (running cmd [.returnRead 0x2925]).cont = some ⟨cmd, none, [.returnRead 0x2925], none, .ok⟩ ∧
        (cmd = .xferR16 ∨ cmd = .regRead) := by decide

/-- The calls of every clause, for an outside that answers yes and one that answers no. -/
theorem witness_CollaboratorCalls :
    ∀ p ∈ [Prim.wait 1 .us, .release .bl, .acquire .sdo, .setLine .rst false, .railOn 6, .blEnable, .blSet 100],
      (running .powerOn [.prim p]).host = [] ∧
        (running .powerOn [.prim p]).cont = some ⟨.powerOn, none, [.prim p], none, .ok⟩ ∧
        (running .powerOn [.prim p]).env.answer = true ∧
        { running .powerOn [.prim p] with env := refusing }.env.answer = false := by decide

theorem witness_FailedTransferStopsAtTheCall :
    { transferring ⟨.write 0x1BC, 5, .clockLow⟩ with env := refusing }.env.answer = false ∧
      Xfer.prim Config.defaults ⟨.write 0x1BC, 5, .clockLow⟩ = .setLine .sck false ∧
      Xfer.prim Config.defaults ⟨.read 0, 15, .data⟩ = .getSdo := by decide

theorem witness_RailFailureAbortsPowerOn :
    { running .powerOn [.prim (.railOn 1)] with env := refusing }.env.answer = false ∧
      (running .powerOn [.prim (.railOn 1)]).cont = some ⟨.powerOn, none, [.prim (.railOn 1)], none, .ok⟩ := by decide

theorem witness_AttachRuns :
    let s := { State.reset with nrails := 7, env := granting, host := [⟨0, .write 0 0x01⟩] }
    s.host = [⟨0, .write 0 0x01⟩] ∧ (0x01 : Word).extractLsb' 0 8 = 0x01#8 ∧ s.cont = none ∧
      s.status.lc = .detached ∧ s.nrails ≠ 0 ∧ s.own = [] ∧ s.env.grants (10 + s.nrails.toNat) :=
  ⟨rfl, rfl, rfl, rfl, by decide, rfl, granting_grants 17 (by decide)⟩

theorem witness_DetachRuns :
    let s := hostDoes attached (.write 0 0x02)
    s.host = [⟨0, .write 0 0x02⟩] ∧ (0x02 : Word).extractLsb' 0 8 = 0x02#8 ∧ s.cont = none ∧
      s.status.lc = .attached ∧ s.own = handlesOf s.nrails := by decide

theorem witness_XferW9Runs :
    let s := hostDoes attached (.write 0 0x110)
    s.host = [⟨0, .write 0 0x110⟩] ∧ (0x110 : Word).extractLsb' 0 8 = 0x10#8 ∧ s.idleAttached ∧ s.env.grants 29 :=
  ⟨rfl, rfl, ⟨rfl, rfl⟩, granting_grants 29 (by decide)⟩

theorem witness_XferR16Runs :
    let s := hostDoes attached (.write 0 0x11)
    s.host = [⟨0, .write 0 0x11⟩] ∧ (0x11 : Word).extractLsb' 0 8 = 0x11#8 ∧ s.idleAttached ∧ s.env.grants 50 :=
  ⟨rfl, rfl, ⟨rfl, rfl⟩, granting_grants 50 (by decide)⟩

theorem witness_RegWriteRuns :
    let s := hostDoes attached (.write 0 0x20)
    s.host = [⟨0, .write 0 0x20⟩] ∧ (0x20 : Word).extractLsb' 0 8 = 0x20#8 ∧ s.idleAttached ∧ s.env.grants 87 :=
  ⟨rfl, rfl, ⟨rfl, rfl⟩, granting_grants 87 (by decide)⟩

theorem witness_RegReadRuns :
    let s := hostDoes attached (.write 0 0x21)
    s.host = [⟨0, .write 0 0x21⟩] ∧ (0x21 : Word).extractLsb' 0 8 = 0x21#8 ∧ s.idleAttached ∧ s.env.grants 195 :=
  ⟨rfl, rfl, ⟨rfl, rfl⟩, granting_grants 195 (by decide)⟩

theorem witness_PktSendRuns :
    let s := hostDoes onePacket (.write 0 0x22)
    s.host = [⟨0, .write 0 0x22⟩] ∧ (0x22 : Word).extractLsb' 0 8 = 0x22#8 ∧ s.idleAttached ∧
      [(0x11 : Byte)].length = s.arg0.toNat ∧ 1 ≤ s.arg0.toNat ∧ s.arg0.toNat ≤ 256 ∧
      Mem.read s.mem (0x100 + 0) = some 0x11 ∧ s.env.grants (29 * (4 + [(0x11 : Byte)].length)) :=
  ⟨rfl, rfl, ⟨rfl, rfl⟩, by decide, by decide, by decide, by decide, granting_grants 145 (by decide)⟩

/-- A packet of 256 bytes, the longest. -/
theorem witness_PktSendRuns_longest :
    let s := { fullPacket with env := ⟨List.replicate 7540 true, 0, [], 0⟩, host := [⟨0, .write 0 0x22⟩] }
    s.idleAttached ∧ (List.replicate 256 (0 : Byte)).length = s.arg0.toNat ∧ s.arg0.toNat ≤ 256 ∧
      s.env.grants (29 * (4 + (List.replicate 256 (0 : Byte)).length)) := by
  refine ⟨⟨rfl, rfl⟩, List.length_replicate, by decide, ?_⟩
  rw [List.length_replicate]
  exact grants_replicate 7540 (29 * (4 + 256)) (by decide) [] 0

/-- Phases with an instruction of each kind: the PLL in order, a packet, a delay. -/
def shortPhases : State :=
  withScript { attached with ph2 := 9, ph3 := 13 }
    ([0x01, 0xBA, 0x15, 0x80, 0x01, 0xB9, 0x01, 0x00, 0x00] ++ [0x02, 0x01, 0x11, 0x00] ++ [0x03, 0x50, 0x00, 0x00])

/-- Empty phases, and phases with eleven wire words. -/
theorem witness_PowerOnReachesDisplayOn :
    (∀ x ∈ [(emptyPhases, 0, 0), (shortPhases, 16, 11)],
      let s := hostDoes x.1 (.write 0 0x30)
      s.host = [⟨0, .write 0 0x30⟩] ∧ (0x30 : Word).extractLsb' 0 8 = 0x30#8 ∧ s.cont = none ∧
        s.powerAllowed = true ∧ s.validateAll = .ok x.2.1 ∧
        (s.scriptListing.flatMap (instrWords s.cfg)).length = x.2.2) ∧
      granting.grants (5 + (1 : BitVec 3).toNat + 29 * 0) ∧ granting.grants (5 + (1 : BitVec 3).toNat + 29 * 11) :=
  ⟨of_all _ (by decide +kernel), granting_grants 6 (by decide), granting_grants 325 (by decide)⟩

theorem witness_StepRunsTheDecodedInstruction :
    (hostDoes attached (.write 0 0x30)).due (.write 0 0x30) [] ∧
      (withScript (inPhase .one) [0x00]).cont = some ⟨.powerOn, some .one, [.script], none, .ok⟩ ∧
      decodeScript ((withScript (inPhase .one) [0x03, 0x50, 0x00]).scriptFrom 3 0) = .ok (.delayMs 80, []) ∧
      (running .regRead [.frame .cmd 0xD4, .read16]).cont =
        some ⟨.regRead, none, [.frame .cmd 0xD4, .read16], none, .ok⟩ := ⟨rfl, rfl, by decide +kernel, rfl⟩

theorem witness_StepRunsTheDecodedInstruction_fetch :
    ∃ bs, decodeScript ((withScript (inPhase .one) [0x00]).scriptFrom 257 0) = .ok (.endPhase, bs) := by
  refine ⟨(withScript (inPhase .one) [0x00]).scriptFrom 256 1, ?_⟩
  rw [State.scriptFrom_written (s := withScript (inPhase .one) [0x00]) 256 (a := 0) (by decide) (b := 0x00)
    (by decide)]
  rfl

theorem witness_DecodeOfEncodeIsTheInstruction :
    ∀ i ∈ [Instr.attach, .pkt [0x11], .pkt (List.replicate 255 0), .reservedScript 0x05, .reservedHost 0x31,
      .regw 0xBA 0x8015, .wireDsi 0xFF], i.wf = true := by decide +kernel

theorem witness_ScriptBytesAreTheEncodersBytes :
    decodeScript [0x02, 0x01, 0x11, 0x00] = .ok (.pkt [0x11], [0x00]) := by decide

theorem witness_HostCommandFrame :
    (after (exec .powerOn emptyPhases) State.busy).isSome = true ∧
      (after (exec .detach attached) State.busy).isSome = true ∧
      (after (exec (.reservedHost 0x31) attached) State.busy).isSome = true := by decide +kernel

theorem witness_ScriptAndWireFrame :
    (after (exec .endPhase (inPhase .one)) State.busy).isSome = true ∧
      (after (exec (.pkt [0x11]) (inPhase .two)) State.busy).isSome = true ∧
      (after (exec (.wireDsi 0x11) (inPhase .two)) State.busy).isSome = true ∧
      (after (exec (.reservedScript 0x05) (inPhase .one)) State.busy).isSome = true := by decide

/-- The premises of the statements about every step: a state with no host action, and its next state. -/
theorem witness_TraceGrowsByAtMostOneEvent :
    (∀ rest, ¬ (running .powerOn [.prim .blEnable]).due .reset rest) ∧
      (∀ off d rest, ¬ (running .powerOn [.prim .blEnable]).due (.write off d) rest) ∧
      (after (step (running .powerOn [.prim .blEnable])) State.trace) = some [.blEnable] := by
  refine ⟨?_, ?_, by decide⟩ <;> · intros; exact notDue rfl

theorem witness_StickyFlagsStay :
    (after (step { attached with status := ⟨.attached, .unpowered, true, .line, true, true⟩ }) State.status) =
      some ⟨.attached, .unpowered, true, .line, true, true⟩ := by decide

theorem witness_OnlyTheHostWritesBuffers :
    (∀ off d rest, ¬ onePacket.due (.write off d) rest) ∧ (∀ rest, ¬ onePacket.due .reset rest) ∧
      (after (step onePacket) State.mem) = some [(0x100, 0x11)] := by
  refine ⟨?_, ?_, by decide⟩ <;> · intros; exact notDue rfl

theorem witness_StepKeepsBuffersCanonicalAndBrightLegal :
    onePacket.buffersInv ∧ onePacket.brightInv ∧ (after (step onePacket) State.busy).isSome = true :=
  ⟨⟨rfl, rfl⟩, show (100 : Nat) ≤ 100 by decide, by decide⟩

/-- POWER_ON about to write its last power state. -/
def lastPState : State :=
  { running .powerOn [.setPState .displayOn] with
    status := ⟨.attached, .panelScripted, false, .ok, false, false⟩ }

theorem witness_PstateOnlyAdvancesByOne :
    lastPState.powerInv ∧ (∀ rest, ¬ lastPState.due .reset rest) ∧
      (after (step lastPState) (fun s => s.status.pstate)) = some .displayOn := by
  refine ⟨?_, ?_, by decide⟩
  · intro c h
    cases h
    rfl
  · intros
    exact notDue rfl

theorem witness_LifecycleIsOneWay :
    { State.reset with cont := some ⟨.attach, none, [], none, .ok⟩ }.lifecycleInv ∧
      (after (step { State.reset with cont := some ⟨.attach, none, [], none, .ok⟩ }) (fun s => s.status.lc)) =
        some .attached := by
  refine ⟨?_, by decide⟩
  intro c h
  cases h
  rfl

theorem witness_TransfersStartFromIdleLines :
    (transferring ⟨.write 0x1BC, 8, .select⟩).busInv ∧
      (after (step (transferring ⟨.write 0x1BC, 8, .select⟩)) (fun s => s.lvl.cs)) = some .zero :=
  ⟨⟨rfl, rfl, rfl⟩, by decide⟩

/-- A phase about to fetch an instruction that passed, and its step. -/
theorem witness_IllegalInstructionsNeverExecute :
    (withScript (inPhase .two) [0x02, 0x01, 0x11, 0x00]).scriptInv ∧
      (after (step (withScript (inPhase .two) [0x02, 0x01, 0x11, 0x00])) State.busy).isSome = true := by
  refine ⟨?_, by decide +kernel⟩
  intro c h
  cases h
  exact ⟨⟨.two, rfl, 2, false, 3, by decide +kernel⟩, trivial⟩

end Sys2Proof.Tests
end

/-! ## Proofs: the scope of a step (O52, O34, O46)

A step is a host action or one statement of the command in progress. The lemmas say what a statement's step is, then
what each shared operation does to the trace. -/

namespace Sys2Proof.Machine

/-! ### The step of one statement -/

/-- With no host action pending and no transfer in progress, a step runs the command's next statement. -/
theorem step_statement {s : State} {c : Cont} (hh : s.host = []) (hc : s.cont = some c) (hx : c.xfer = none) :
    step s = (s.statementNext c).outcome := by
  rw [step, State.next_of_noHost hh, State.controllerNext_statement hc hx]

theorem State.statementNext_prim (s : State) {c : Cont} {p : Prim} {rest : List Op} (ho : c.ops = .prim p :: rest) :
    s.statementNext c = .goto (s.call p fun t => { t with cont := some { c with ops := rest } }) := by
  simp [State.statementNext, ho]

theorem State.statementNext_frame (s : State) {c : Cont} {r : Role} {b : Byte} {rest : List Op}
    (ho : c.ops = .frame r b :: rest) :
    s.statementNext c = .run (r.instr b) { s with cont := some { c with ops := rest } } := by
  simp [State.statementNext, ho]

theorem State.statementNext_read16 (s : State) {c : Cont} {rest : List Op} (ho : c.ops = .read16 :: rest) :
    s.statementNext c = .run .read16 { s with cont := some { c with ops := rest } } := by
  simp [State.statementNext, ho]

theorem State.statementNext_script (s : State) {c : Cont} {ph : Phase} {i : Instr} {rest : List Op}
    (ho : c.ops = .script :: rest) (hp : c.phase = some ph) (hf : s.fetchScript ph = .ok i) :
    s.statementNext c = .run i { s with cont := some { c with ops := rest } } := by
  simp [State.statementNext, State.scriptNext, ho, hp, hf]

/-- The fetch gives the instruction the script bytes decode to, unless it is a PKT outside phase 2 (R196). -/
theorem State.fetchScript_of_decode {s : State} {ph : Phase} {i : Instr} {bs : List Byte}
    (hd : decodeScript (s.scriptFrom maxScriptLength s.sp.toNat) = .ok (i, bs))
    (hp : ph = .two ∨ ∀ payload, i ≠ .pkt payload) : s.fetchScript ph = .ok i := by
  unfold State.fetchScript
  rw [hd]
  split
  · contradiction
  · rename_i payload _ he
    cases he
    obtain rfl | hn := hp
    · rfl
    · exact absurd rfl (hn payload)
  · rename_i he
    cases he
    rfl

/-- A word due at CMD is the instruction the step runs. -/
theorem State.next_of_cmdWrite {s : State} {d : Word} {rest : List HostSlot} (h : s.due (.write 0 d) rest) :
    s.next = .run (decodeHost d) { s with host := rest } := by
  rw [State.next_of_due h]
  rfl

/-! ### Events of a step (R9, R52) -/

/-- A collaborator call appends one event, its own or its Fail event, when the rest of the step emits none (R9, R13). -/
theorem State.call_trace (s : State) (p : Prim) {done : State → State} (hd : ∀ u, (done u).trace = u.trace) :
    ∃ e, (s.call p done).trace = s.trace ++ [e] := by
  obtain ⟨-, he⟩ | ⟨-, -, he⟩ | ⟨f, -, -, he⟩ := s.call_cases p done
  · rw [he, hd]
    exact s.succeed_trace p
  · rw [he, hd]
    exact s.countCall.succeed_trace p
  · rw [he, State.failCall_eq]
    exact ⟨_, rfl⟩

theorem State.transferStep_trace (s : State) (c : Cont) (x : Xfer) :
    ∃ e, (s.transferStep c x).trace = s.trace ++ [e] :=
  s.call_trace _ fun _ => rfl

/-- A host command emits no event in the step that rejects or accepts it. -/
theorem State.commandResult_trace {s t : State} (h : s.commandResult t) : t.trace = s.trace := by
  obtain ⟨-, rfl⟩ | ⟨-, e, sp, rfl⟩ | ⟨-, cmd, body, sp, -, rfl⟩ := h <;> rfl

/-- A script instruction emits no event in the step that dispatches it. -/
theorem exec_fetched_trace {u s t : State} {ph : Phase} {i : Instr} (hf : u.fetchScript ph = .ok i)
    (h : exec i s = .next t) : t.trace = s.trace := by
  obtain rfl | ⟨c, -, -, rfl | ⟨stmts, n, -, rfl⟩⟩ := exec_fetched_result hf h <;> rfl

/-- A controller step emits one event for a call, alone or inside a transfer, and none for any other statement. -/
theorem State.controller_trace {s t : State} (h : s.controllerNext.outcome = .next t) :
    t.trace = s.trace ∨ ∃ e, t.trace = s.trace ++ [e] := by
  obtain ⟨-, rfl⟩ | ⟨c, -, ⟨x, -, rfl⟩ | ⟨-, ⟨-, rfl⟩ | ⟨rest, hs⟩⟩⟩ := State.controller_cases h
  · exact .inl rfl
  · exact .inr (s.transferStep_trace c x)
  · exact .inl rfl
  · obtain ⟨p, -, rfl⟩ | ⟨w, -, rfl⟩ | ⟨r, b, -, rfl⟩ | ⟨-, rfl⟩ | ⟨ph, ptr, -, rfl⟩ | ⟨i, ph, -, -, hf, he⟩ |
      ⟨n, -, rfl⟩ | ⟨p, -, rfl⟩ | ⟨raw, -, rfl⟩ := hs
    · exact .inr (s.call_trace p fun _ => rfl)
    · exact .inl rfl
    · exact .inl rfl
    · exact .inl rfl
    · exact .inl rfl
    · exact .inl (exec_fetched_trace (s := { s with cont := some { c with ops := rest } }) hf he)
    · exact .inl rfl
    · exact .inl rfl
    · exact .inl rfl

/-- Settles O52: by the ways a step can go on, the host's actions emit no event and the controller's at most one. -/
theorem traceGrowsByAtMostOneEvent : Obligations.TraceGrowsByAtMostOneEvent := by
  intro s t hr h
  obtain ⟨rest, hd, -⟩ | ⟨d, rest, -, he⟩ | ⟨off, d, rest, -, -, -, rfl⟩ | ⟨rest, w, rfl⟩ | ⟨-, hs, hc⟩ := step_cases h
  · exact absurd hd (hr rest)
  · exact .inl (State.commandResult_trace (s := { s with host := rest }) (exec_decodeHost_result he))
  · obtain ⟨-, -, -, -, ht, -⟩ := State.hostWrite_controller { s with host := rest } off d
    exact .inl ht
  · exact .inl rfl
  · exact State.controller_trace (s := { s with host := hs }) hc

/-! ### Collaborator calls (R13) -/

theorem mem_acquireHandle (own : List Handle) (h x : Handle) : x ∈ acquireHandle own h ↔ x ∈ own ∨ x = h := by
  unfold acquireHandle
  split
  · exact ⟨.inl, fun hx => hx.elim id fun e => e ▸ ‹_›⟩
  · simp

theorem Level.ofBool_eq (v : Bool) : Level.ofBool v = if v then .one else .zero := by
  cases v <;> rfl

section CallStep

variable {s : State} {c : Cont} {p : Prim} {rest : List Op} (hh : s.host = []) (hc : s.cont = some c)
  (hx : c.xfer = none) (ho : c.ops = .prim p :: rest)

include hh hc hx ho

/-- The step of a collaborator call that stands next in a command. -/
theorem step_prim : step s = .next (s.call p fun t => { t with cont := some { c with ops := rest } }) := by
  rw [step_statement hh hc hx, s.statementNext_prim ho, Next.outcome]

/-- A call that cannot fail has its effect, and the command goes on. -/
theorem step_prim_sure (hf : p.failure = none) :
    step s = .next { s.succeed p with cont := some { c with ops := rest } } := by
  rw [step_prim hh hc hx ho, s.call_sure p _ hf]

/-- A fallible call that is granted is counted and has its effect, and the command goes on. -/
theorem step_prim_granted {f : FailKind × Handle × ErrCode} (hf : p.failure = some f) (ha : s.env.answer = true) :
    step s = .next { s.countCall.succeed p with cont := some { c with ops := rest } } := by
  rw [step_prim hh hc hx ho, s.call_granted p _ ha, if_neg (by simp [hf])]

/-- A fallible call that is denied is counted, emits its Fail event and ends the command with its error (R274). -/
theorem step_prim_failed {f : FailKind × Handle × ErrCode} (hf : p.failure = some f) (ha : s.env.answer = false) :
    step s = .next { s.countCall with
      cont := none, trace := s.trace ++ [.fail f.1 f.2.1], lvl := p.failedLevels s.lvl
      status := s.status.raised f.2.2 (some c.cmd) } := by
  rw [step_prim hh hc hx ho, s.call_failed p _ f hf ha, State.failCall_eq]
  simp [hc]

end CallStep

/-- Settles O34: each row of R13's table is one of the three ways a call's step ends. -/
theorem collaboratorCalls : Obligations.CollaboratorCalls := by
  intro s c rest hh hc hx
  refine ⟨fun n u ho => step_prim_sure hh hc hx ho rfl, fun h ho => step_prim_sure hh hc hx ho rfl, ?granted, ?failed⟩
  case granted =>
    intro ha
    refine ⟨fun h ho => ⟨_, step_prim_granted hh hc hx ho rfl ha, mem_acquireHandle s.own h⟩,
      fun l v ho => ?_, fun k ho => ?_, fun ho => ?_, fun p ho => ?_⟩
    · rw [← Level.ofBool_eq]
      exact step_prim_granted hh hc hx ho rfl ha
    all_goals exact step_prim_granted hh hc hx ho rfl ha
  case failed =>
    intro ha
    refine ⟨fun h ho => ?_, fun l v ho => ?_, fun k ho => ?_, fun ho => ?_, fun p ho => ?_⟩
    all_goals exact step_prim_failed hh hc hx ho rfl ha

/-! ### The instruction a step runs (R9, R180, R165, R230) -/

/-- Settles O46: what comes next is the decoded instruction, and a step is `exec` of it. -/
theorem stepRunsTheDecodedInstruction : Obligations.StepRunsTheDecodedInstruction := by
  refine ⟨fun s d rest h => step_run (State.next_of_cmdWrite h), fun s c rest hh hc hx => ?_⟩
  have run {i : Instr} (h : s.statementNext c = .run i { s with cont := some { c with ops := rest } }) :
      step s = exec i { s with cont := some { c with ops := rest } } := by
    rw [step_statement hh hc hx, h, Next.outcome]
  refine ⟨fun ph i bs ho hp hd hk => ?_, fun b ho => ?_, fun b ho => ?_, fun b ho => ?_, fun ho => ?_⟩
  · exact run (s.statementNext_script ho hp (State.fetchScript_of_decode hd hk))
  · exact run (s.statementNext_frame ho)
  · exact run (s.statementNext_frame ho)
  · exact run (s.statementNext_frame ho)
  · exact run (s.statementNext_read16 ho)

end Sys2Proof.Machine

/-! ## Proofs: what every step keeps of the state (O53 to O57)

A step is seen through two lenses. `State.sameStore` is the part of the state that no command and no statement writes:
the buffers, `BRIGHT` and the parameters. `ControlStep` lists what a step can do to the status and the continuation. -/

namespace Sys2Proof.Machine

/-! ### The store: buffers, BRIGHT and the parameters -/

/-- Two states agree on what only the host writes (the buffers' bytes, `BRIGHT`) or nothing does (the parameters). -/
structure State.sameStore (s t : State) : Prop where
  mem : t.mem = s.mem
  epoch : t.epoch = s.epoch
  bright : t.bright = s.bright
  cfg : t.cfg = s.cfg

theorem State.sameStore_refl (s : State) : s.sameStore s := ⟨rfl, rfl, rfl, rfl⟩

/-- A collaborator call leaves the store alone (R13). -/
theorem State.call_sameStore (s : State) (p : Prim) {done : State → State} (hd : ∀ u : State, u.sameStore (done u)) :
    s.sameStore (s.call p done) := by
  obtain ⟨-, he⟩ | ⟨-, -, he⟩ | ⟨f, -, -, he⟩ := s.call_cases p done <;> rw [he]
  · obtain ⟨hm, hep, hb, hc⟩ := hd (s.succeed p)
    exact ⟨by simp [hm], by simp [hep], by simp [hb], by simp [hc]⟩
  · obtain ⟨hm, hep, hb, hc⟩ := hd (s.countCall.succeed p)
    exact ⟨by simp [hm], by simp [hep], by simp [hb], by simp [hc]⟩
  · exact ⟨rfl, rfl, rfl, rfl⟩

/-- A host command reads the store and does not write it (R79). -/
theorem State.commandResult_sameStore {s t : State} (h : s.commandResult t) : s.sameStore t := by
  obtain ⟨-, rfl⟩ | ⟨-, e, sp, rfl⟩ | ⟨-, cmd, body, sp, -, rfl⟩ := h <;> exact ⟨rfl, rfl, rfl, rfl⟩

/-- A script instruction does not write the store in the step that dispatches it. -/
theorem exec_fetched_sameStore {u s t : State} {ph : Phase} {i : Instr} (hf : u.fetchScript ph = .ok i)
    (h : exec i s = .next t) : s.sameStore t := by
  obtain rfl | ⟨c, -, -, rfl | ⟨stmts, n, -, rfl⟩⟩ := exec_fetched_result hf h <;> exact ⟨rfl, rfl, rfl, rfl⟩

/-- The controller never writes the store (R48, R83). -/
theorem State.controller_sameStore {s t : State} (h : s.controllerNext.outcome = .next t) : s.sameStore t := by
  obtain ⟨-, rfl⟩ | ⟨c, -, ⟨x, -, rfl⟩ | ⟨-, ⟨-, rfl⟩ | ⟨rest, hs⟩⟩⟩ := State.controller_cases h
  · exact State.sameStore_refl _
  · exact s.call_sameStore _ fun _ => ⟨rfl, rfl, rfl, rfl⟩
  · exact ⟨rfl, rfl, rfl, rfl⟩
  · obtain ⟨p, -, rfl⟩ | ⟨w, -, rfl⟩ | ⟨r, b, -, rfl⟩ | ⟨-, rfl⟩ | ⟨ph, ptr, -, rfl⟩ | ⟨i, ph, -, -, hf, he⟩ |
      ⟨n, -, rfl⟩ | ⟨p, -, rfl⟩ | ⟨raw, -, rfl⟩ := hs
    · exact s.call_sameStore p fun _ => ⟨rfl, rfl, rfl, rfl⟩
    · exact ⟨rfl, rfl, rfl, rfl⟩
    · exact ⟨rfl, rfl, rfl, rfl⟩
    · exact ⟨rfl, rfl, rfl, rfl⟩
    · exact ⟨rfl, rfl, rfl, rfl⟩
    · obtain ⟨hm, hep, hb, hc⟩ := exec_fetched_sameStore hf he
      exact ⟨hm, hep, hb, hc⟩
    · exact ⟨rfl, rfl, rfl, rfl⟩
    · exact ⟨rfl, rfl, rfl, rfl⟩
    · exact ⟨rfl, rfl, rfl, rfl⟩

/-- Every step but a platform reset and a host write to an offset other than CMD leaves the store alone. -/
theorem step_store {s t : State} (h : step s = .next t) :
    (∃ rest, s.due .reset rest ∧ t = State.platformReset { s with host := rest }) ∨
    (∃ off d rest, s.due (.write off d) rest ∧ alignedOffset off = true ∧
      t = State.hostWrite { s with host := rest } off d) ∨
    s.sameStore t := by
  obtain hr | ⟨d, rest, -, he⟩ | ⟨off, d, rest, hd, ha, -, rfl⟩ | ⟨rest, w, rfl⟩ | ⟨-, hs, hc⟩ := step_cases h
  · exact .inl hr
  · have hs := State.commandResult_sameStore (s := { s with host := rest }) (exec_decodeHost_result he)
    obtain ⟨hm, hep, hb, hcfg⟩ := hs
    exact .inr (.inr ⟨hm, hep, hb, hcfg⟩)
  · exact .inr (.inl ⟨off, d, rest, hd, ha, rfl⟩)
  · exact .inr (.inr ⟨rfl, rfl, rfl, rfl⟩)
  · obtain ⟨hm, hep, hb, hcfg⟩ := State.controller_sameStore (s := { s with host := hs }) hc
    exact .inr (.inr ⟨hm, hep, hb, hcfg⟩)

/-- Settles O54: what is left of a step without a host write and a reset keeps the store. -/
theorem onlyTheHostWritesBuffers : Obligations.OnlyTheHostWritesBuffers := by
  intro s t hw hr h
  obtain ⟨rest, hd, -⟩ | ⟨off, d, rest, hd, -⟩ | hs := step_store h
  · exact absurd hd (hr rest)
  · exact absurd hd (hw off d rest)
  · exact ⟨hs.mem, hs.epoch⟩

/-! ### Host writes to the store (R40, R47, R48, R72) -/

/-- The four bytes of an aligned word lie in the buffer its offset lies in. -/
theorem bufferOffset_word {off : Offset} (ha : alignedOffset off = true) (hb : bufferOffset off.toNat = true) {k : Nat}
    (hk : k < 4) : bufferOffset (off.toNat + k) = true := by
  have hm : off.toNat % 4 = 0 := by
    have := congrArg BitVec.toNat (eq_of_beq ha)
    simpa using this
  simp only [bufferOffset, Bool.or_eq_true, Bool.and_eq_true, decide_eq_true_eq] at hb ⊢
  omega

theorem Mem.inBuffers_write {m : Mem} {x : Nat} (b : Byte) (hx : bufferOffset x = true)
    (hm : Mem.inBuffers m = true) : Mem.inBuffers (Mem.write m x b) = true :=
  Mem.all_write bufferOffset m x b hx hm

/-- An aligned word write to a buffer lists offsets of the buffer only. -/
theorem Mem.inBuffers_writeWord {m : Mem} {off : Offset} (d : Word) (ha : alignedOffset off = true)
    (hb : bufferOffset off.toNat = true) (hm : Mem.inBuffers m = true) :
    Mem.inBuffers (Mem.writeWord m off.toNat d) = true :=
  have inside {k : Nat} (hk : k < 4) : bufferOffset (off.toNat + k) = true := bufferOffset_word ha hb hk
  Mem.inBuffers_write _ (inside (k := 3) (by decide)) <| Mem.inBuffers_write _ (inside (k := 2) (by decide)) <|
    Mem.inBuffers_write _ (inside (k := 1) (by decide)) <| Mem.inBuffers_write _ hb hm

/-- A host write changes the buffers' bytes only as a word write to a buffer. -/
theorem State.hostWrite_mem (s : State) (off : Offset) (d : Word) :
    (s.hostWrite off d).mem = s.mem ∨
      (bufferOffset off.toNat = true ∧ (s.hostWrite off d).mem = Mem.writeWord s.mem off.toNat d) := by
  unfold State.hostWrite
  split
  · exact .inl rfl
  · split
    · exact .inl (s.writeReg_mem d _)
    · exact .inr ⟨bufferOffset_of_windowTarget ‹_›, rfl⟩
    · exact .inl rfl

theorem State.hostWrite_buffersInv {s : State} {off : Offset} (d : Word) (ha : alignedOffset off = true)
    (hs : s.buffersInv) : (s.hostWrite off d).buffersInv := by
  obtain ⟨hwf, hin⟩ := hs
  obtain he | ⟨hb, he⟩ := s.hostWrite_mem off d <;> rw [State.buffersInv, he]
  · exact ⟨hwf, hin⟩
  · exact ⟨Mem.wf_writeWord _ _ _ hwf, Mem.inBuffers_writeWord d ha hb hin⟩

/-- The value BRIGHT takes is legal, whatever is written (R40). -/
theorem brightOf_le (d : Word) : (brightOf d).toNat ≤ 100 := by
  unfold brightOf
  split
  · rename_i h
    exact (Nat.mod_le _ _).trans h
  · decide

/-- A host write leaves BRIGHT or stores a legal value in it. -/
theorem State.hostWrite_bright (s : State) (off : Offset) (d : Word) :
    (s.hostWrite off d).bright = s.bright ∨ (s.hostWrite off d).bright = brightOf d := by
  unfold State.hostWrite
  split
  · exact .inl rfl
  · split
    · rename_i r _
      cases r <;> simp only [State.writeReg, true_or, or_true]
      split <;> exact .inl rfl
    · exact .inl rfl
    · exact .inl rfl

theorem State.hostWrite_brightInv {s : State} (off : Offset) (d : Word) (hs : s.brightInv) :
    (s.hostWrite off d).brightInv := by
  obtain he | he := s.hostWrite_bright off d <;> rw [State.brightInv, he]
  · exact hs
  · exact brightOf_le d

/-- Settles O55: a host write keeps both properties, a reset restores them, and no other step touches the store. -/
theorem stepKeepsBuffersCanonicalAndBrightLegal : Obligations.StepKeepsBuffersCanonicalAndBrightLegal := by
  intro s t hs hb h
  obtain ⟨rest, -, rfl⟩ | ⟨off, d, rest, -, ha, rfl⟩ | ⟨hmem, -, hbright, -⟩ := step_store h
  · exact ⟨⟨rfl, rfl⟩, Nat.le_refl 100⟩
  · exact ⟨State.hostWrite_buffersInv (s := { s with host := rest }) d ha hs,
      State.hostWrite_brightInv (s := { s with host := rest }) off d hb⟩
  · exact ⟨by rwa [State.buffersInv, hmem], by rwa [State.brightInv, hbright]⟩

/-! ### Control: the status and the continuation -/

/-- What a step other than a platform reset can do to the status `st` and the continuation `k`. -/
inductive ControlStep (st : Status) (k : Option Cont) (st' : Status) (k' : Option Cont) : Prop
  /-- A host access, a rejected command, or a step with no command in progress: at most `ERR` is written and
  `BUSY_VIOL` set (R232, R272). -/
  | host (e : ErrCode) (v : Bool) (kept : st.busyViol = true → v = true)
      (status : st' = { st with err := e, busyViol := v }) (cont : k' = k)
  /-- A command is accepted under its conditions (R230). -/
  | accepted (u : State) (cmd : Command) (body : List Op) (same : u.status = st) (conditions : u.acceptable cmd body)
      (idle : k = none) (status : st' = { st with err := .ok }) (cont : k' = some ⟨cmd, none, body, none, st.err⟩)
  /-- The command in progress goes on, and writes no power state. -/
  | goesOn (c c' : Cont) (running : k = some c) (status : st' = st) (cont : k' = some c') (cmd : c'.cmd = c.cmd)
      (pstates : pstatesOf c'.ops = pstatesOf c.ops)
  /-- The command in progress writes the first power state that it has still to write (R205). -/
  | writesPState (c c' : Cont) (p : PowerState) (running : k = some c) (status : st' = { st with pstate := p })
      (cont : k' = some c') (cmd : c'.cmd = c.cmd) (pstates : pstatesOf c.ops = p :: pstatesOf c'.ops)
  /-- The command in progress completes (R230, R233, R234). -/
  | completes (c : Cont) (running : k = some c) (status : st' = { st with lc := c.cmd.lifecycle st.lc })
      (cont : k' = none)
  /-- The command in progress ends in an error, raised by a failed call (R274). -/
  | raises (c : Cont) (e : ErrCode) (running : k = some c) (status : st' = st.raised e (some c.cmd)) (cont : k' = none)
  /-- The command in progress ends at a reserved script opcode (R123; notes/assumptions/11.md). -/
  | endsAtReserved (c : Cont) (running : k = some c) (status : st' = { st with err := .script }) (cont : k' = none)

/-- The control step from one state to another. -/
abbrev State.controls (s t : State) : Prop := ControlStep s.status s.cont t.status t.cont

@[simp] theorem pstatesOf_nil : pstatesOf [] = [] := rfl

@[simp] theorem pstatesOf_append (xs ys : List Op) : pstatesOf (xs ++ ys) = pstatesOf xs ++ pstatesOf ys :=
  List.filterMap_append

@[simp] theorem pstatesOf_setPState (p : PowerState) (ops : List Op) :
    pstatesOf (.setPState p :: ops) = p :: pstatesOf ops := rfl

/-- A statement other than a write of PSTATE. -/
theorem pstatesOf_cons_of_ne {o : Op} (ops : List Op) (h : ∀ p, o ≠ .setPState p) :
    pstatesOf (o :: ops) = pstatesOf ops := by
  cases o with
  | setPState p => exact absurd rfl (h p)
  | _ => rfl

/-- A list of statements without a write of PSTATE. -/
theorem pstatesOf_eq_nil {ops : List Op} (h : ∀ o ∈ ops, ∀ p, o ≠ .setPState p) : pstatesOf ops = [] := by
  induction ops with
  | nil => rfl
  | cons o ops ih =>
    rw [pstatesOf_cons_of_ne ops (h o (by simp)), ih fun o ho => h o (by simp [ho])]

/-- A transfer's call leaves the command and the power states it still writes. -/
theorem Cont.afterCall_pstates (c : Cont) (x : Xfer) (b : Bool) :
    (c.afterCall x b).cmd = c.cmd ∧ pstatesOf (c.afterCall x b).ops = pstatesOf c.ops := by
  unfold Cont.afterCall Xfer.opsAfter
  split
  · exact ⟨rfl, rfl⟩
  · split <;> exact ⟨rfl, rfl⟩

/-- A collaborator call of the command in progress: the command goes on, or it ends in an error (R13, R274). -/
theorem State.call_controls {s : State} {c c' : Cont} (p : Prim) (hc : s.cont = some c) (hcmd : c'.cmd = c.cmd)
    (hps : pstatesOf c'.ops = pstatesOf c.ops) : s.controls (s.call p fun u => { u with cont := some c' }) := by
  obtain ⟨-, he⟩ | ⟨-, -, he⟩ | ⟨f, -, -, he⟩ := s.call_cases p fun u => { u with cont := some c' } <;> rw [he]
  · exact .goesOn c c' hc (by simp) rfl hcmd hps
  · exact .goesOn c c' hc (by simp) rfl hcmd hps
  · exact .raises c f.2.2 hc (by simp [State.failCall_eq, hc]) rfl

/-- A host command is accepted, or writes at most ERR and BUSY_VIOL. -/
theorem State.commandResult_controls {s t : State} (h : s.commandResult t) : s.controls t := by
  obtain ⟨-, rfl⟩ | ⟨-, e, sp, rfl⟩ | ⟨hc, cmd, body, sp, ha, rfl⟩ := h
  · exact .host s.status.err true (fun _ => rfl) rfl rfl
  · exact .host e s.status.busyViol id rfl rfl
  · exact .accepted s cmd body rfl ha hc rfl rfl

/-- The statements a script instruction expands to write no power state. -/
theorem pstatesOf_inScript {stmts : List Op} (h : stmts.all Op.inScript = true) : pstatesOf stmts = [] := by
  refine pstatesOf_eq_nil fun o ho p => ?_
  rintro rfl
  exact absurd (List.all_eq_true.mp h _ ho) Bool.false_ne_true

/-- A fetched script instruction goes on with the command, or is a reserved opcode and ends it. -/
theorem exec_fetched_controls {s t : State} {ph : Phase} {i : Instr} {c : Cont} {rest : List Op} (hc : s.cont = some c)
    (ho : c.ops = .script :: rest) (hf : s.fetchScript ph = .ok i)
    (h : exec i { s with cont := some { c with ops := rest } } = .next t) : s.controls t := by
  obtain rfl | ⟨c', hc', -, rfl | ⟨stmts, n, hi, rfl⟩⟩ := exec_fetched_result hf h
  · exact .endsAtReserved c hc rfl rfl
  · cases hc'
    exact .goesOn c _ hc rfl rfl rfl (by rw [ho]; rfl)
  · cases hc'
    exact .goesOn c _ hc rfl rfl rfl (by rw [ho, pstatesOf_append, pstatesOf_inScript hi]; rfl)

/-- Every controller step is a control step. -/
theorem State.controller_controls {s t : State} (h : s.controllerNext.outcome = .next t) : s.controls t := by
  obtain ⟨-, rfl⟩ | ⟨c, hc, ⟨x, -, rfl⟩ | ⟨-, ⟨-, rfl⟩ | ⟨rest, hs⟩⟩⟩ := State.controller_cases h
  · exact .host t.status.err t.status.busyViol id rfl rfl
  · obtain ⟨hcmd, hps⟩ := c.afterCall_pstates x s.env.level
    exact State.call_controls _ hc hcmd hps
  · exact .completes c hc rfl rfl
  · obtain ⟨p, ho, rfl⟩ | ⟨w, ho, rfl⟩ | ⟨r, b, ho, rfl⟩ | ⟨ho, rfl⟩ | ⟨ph, ptr, ho, rfl⟩ | ⟨i, ph, ho, -, hf, he⟩ |
      ⟨n, ho, rfl⟩ | ⟨p, ho, rfl⟩ | ⟨raw, -, rfl⟩ := hs
    · exact State.call_controls p hc rfl (by rw [ho]; rfl)
    · exact .goesOn c _ hc rfl rfl rfl (by rw [ho]; rfl)
    · exact .goesOn c _ hc rfl rfl rfl (by rw [ho]; rfl)
    · exact .goesOn c _ hc rfl rfl rfl (by rw [ho]; rfl)
    · exact .goesOn c _ hc rfl rfl rfl (by rw [ho]; rfl)
    · exact exec_fetched_controls hc ho hf he
    · exact .goesOn c _ hc rfl rfl rfl (by rw [ho]; rfl)
    · exact .writesPState c _ p hc rfl rfl rfl (by rw [ho]; rfl)
    · exact .completes c hc rfl rfl

/-- Every step is a platform reset or a control step. -/
theorem step_controls {s t : State} (h : step s = .next t) :
    (∃ rest, s.due .reset rest ∧ t = State.platformReset { s with host := rest }) ∨ s.controls t := by
  obtain hr | ⟨d, rest, -, he⟩ | ⟨off, d, rest, -, -, -, rfl⟩ | ⟨rest, w, rfl⟩ | ⟨-, hs, hc⟩ := step_cases h
  · exact .inl hr
  · exact .inr (State.commandResult_controls (s := { s with host := rest }) (exec_decodeHost_result he))
  · obtain ⟨⟨v, hst, hv⟩, hcont, -⟩ := State.hostWrite_controller { s with host := rest } off d
    exact .inr (.host s.status.err v hv hst hcont)
  · exact .inr (.host s.status.err s.status.busyViol id rfl rfl)
  · exact .inr (State.controller_controls (s := { s with host := hs }) hc)

/-! ### Sticky flags (R33, R274) -/

/-- A control step clears no sticky flag. -/
theorem State.controls_sticky {s t : State} (h : s.controls t) :
    (s.status.lineFault = true → t.status.lineFault = true) ∧
      (s.status.aborted = true → t.status.aborted = true) ∧
      (s.status.busyViol = true → t.status.busyViol = true) := by
  cases h with
  | host e v kept status => exact status ▸ ⟨id, id, kept⟩
  | accepted u cmd body same conditions idle status => exact status ▸ ⟨id, id, id⟩
  | goesOn c c' running status => exact status ▸ ⟨id, id, id⟩
  | writesPState c c' p running status => exact status ▸ ⟨id, id, id⟩
  | completes c running status => exact status ▸ ⟨id, id, id⟩
  | raises c e running status =>
    rw [status]
    exact ⟨fun hl => by simp [Status.raised, hl], fun ha => by simp [Status.raised, ha], id⟩
  | endsAtReserved c running status => exact status ▸ ⟨id, id, id⟩

/-- No step writes the parameters (R10). -/
theorem step_cfg {s t : State} (h : step s = .next t) : t.cfg = s.cfg := by
  obtain ⟨rest, -, rfl⟩ | ⟨off, d, rest, -, -, rfl⟩ | hs := step_store h
  · rfl
  · obtain ⟨-, -, -, -, -, -, hcfg, -⟩ := State.hostWrite_controller { s with host := rest } off d
    exact hcfg
  · exact hs.cfg

/-- Settles O53: the parameters are in the store, and no control step clears a flag. -/
theorem stickyFlagsStay : Obligations.StickyFlagsStay := by
  refine fun s t h => ⟨step_cfg h, fun hr => ?_⟩
  obtain ⟨rest, hd, -⟩ | hc := step_controls h
  · exact absurd hd (hr rest)
  · exact State.controls_sticky hc

/-! ### The power states (R54, R205) -/

theorem pstatesOf_prims {α : Type} (f : α → Prim) (xs : List α) : pstatesOf (xs.map fun x => .prim (f x)) = [] :=
  pstatesOf_eq_nil (by simp)

theorem DelayReg.pstatesOf_ops (r : DelayReg) : pstatesOf r.ops = [] := by
  unfold DelayReg.ops
  exact pstatesOf_inScript (delayOps_inScript _ _)

/-- The body of POWER_ON writes every power state after Unpowered, in order (R207 to R212). -/
theorem pstatesOf_powerOnBody (s : State) : pstatesOf (powerOnBody s) = PowerState.later .unpowered := by
  simp [powerOnBody, pstatesOf_cons_of_ne, pstatesOf_prims, DelayReg.pstatesOf_ops, PowerState.later]

/-- An accepted command is to write every later power state if it is POWER_ON, and none otherwise. -/
theorem State.acceptable_pstates {s : State} {cmd : Command} {body : List Op} (h : s.acceptable cmd body) :
    pstatesOf body = if cmd = .powerOn then s.status.pstate.later else [] := by
  cases cmd with
  | attach =>
    obtain ⟨-, -, rfl⟩ := h
    simp [attachBody, pstatesOf_cons_of_ne, pstatesOf_prims]
  | detach =>
    obtain ⟨-, rfl⟩ := h
    simp [detachBody, pstatesOf_prims]
  | xferW9 | xferR16 | regWrite | regRead =>
    obtain ⟨-, rfl⟩ := h
    rfl
  | pktSend =>
    obtain ⟨-, bytes, rfl⟩ := h
    exact pstatesOf_inScript (sendCommandPacket_inScript _ _)
  | powerOn =>
    obtain ⟨hp, -, rfl⟩ := h
    simp only [State.powerAllowed, Bool.and_eq_true, beq_iff_eq] at hp
    obtain ⟨⟨-, hp⟩, -⟩ := hp
    rw [pstatesOf_powerOnBody, hp, if_pos rfl]

/-- A power state is the first of the later ones exactly if its code is the next one (R34, R54). -/
theorem PowerState.later_cons {p q : PowerState} {ps : List PowerState} (h : p.later = q :: ps) :
    q.code.toNat = p.code.toNat + 1 ∧ ps = q.later := by
  cases p <;> cases h <;> exact ⟨rfl, rfl⟩

/-- Under the invariant only POWER_ON writes a power state, and it writes the next one (R54, R205). -/
theorem State.powerInv_writes {s : State} {c : Cont} {p : PowerState} {ps : List PowerState} (hs : s.powerInv)
    (hc : s.cont = some c) (h : pstatesOf c.ops = p :: ps) :
    c.cmd = .powerOn ∧ p.code.toNat = s.status.pstate.code.toNat + 1 ∧ ps = p.later := by
  have hi := hs c hc
  rw [h] at hi
  split at hi
  · exact ⟨‹_›, PowerState.later_cons hi.symm⟩
  · cases hi

/-- A control step keeps the invariant of the power states. -/
theorem State.controls_powerInv {s t : State} (hs : s.powerInv) (h : s.controls t) : t.powerInv := by
  intro c₁ hc₁
  cases h with
  | host e v kept status cont =>
    rw [status]
    exact hs c₁ (cont ▸ hc₁)
  | accepted u cmd body same conditions idle status cont =>
    cases cont.symm.trans hc₁
    rw [status, State.acceptable_pstates conditions, same]
  | goesOn c c' running status cont cmd pstates =>
    cases cont.symm.trans hc₁
    rw [status, pstates, cmd, hs c running]
  | writesPState c c' p running status cont cmd pstates =>
    cases cont.symm.trans hc₁
    obtain ⟨hp, -, hps⟩ := State.powerInv_writes hs running pstates
    rw [status, cmd, if_pos hp, hps]
  | completes c running status cont => cases cont.symm.trans hc₁
  | raises c e running status cont => cases cont.symm.trans hc₁
  | endsAtReserved c running status cont => cases cont.symm.trans hc₁

/-- Under the invariant a control step leaves PSTATE, or is one of POWER_ON that moves it to the next state. -/
theorem State.controls_pstate {s t : State} (hs : s.powerInv) (h : s.controls t) :
    t.status.pstate = s.status.pstate ∨
      (t.status.pstate.code.toNat = s.status.pstate.code.toNat + 1 ∧ ∃ c, s.cont = some c ∧ c.cmd = .powerOn) := by
  cases h with
  | writesPState c c' p running status cont cmd pstates =>
    obtain ⟨hp, hcode, -⟩ := State.powerInv_writes hs running pstates
    exact .inr ⟨status ▸ hcode, c, running, hp⟩
  | host e v kept status => exact .inl (status ▸ rfl)
  | accepted u cmd body same conditions idle status => exact .inl (status ▸ rfl)
  | goesOn c c' running status => exact .inl (status ▸ rfl)
  | completes c running status => exact .inl (status ▸ rfl)
  | raises c e running status => exact .inl (status ▸ rfl)
  | endsAtReserved c running status => exact .inl (status ▸ rfl)

/-- Settles O56: a reset leaves no command in progress, and a control step keeps the invariant, under which only
POWER_ON writes PSTATE. -/
theorem pstateOnlyAdvancesByOne : Obligations.PstateOnlyAdvancesByOne := by
  intro s t hs h
  obtain ⟨rest, hd, rfl⟩ | hc := step_controls h
  · exact ⟨fun c hc => (nomatch hc), fun hr => absurd hd (hr rest)⟩
  · exact ⟨State.controls_powerInv hs hc, fun _ => State.controls_pstate hs hc⟩

/-! ### The lifecycle (R34, R233, R234, R274) -/

/-- ATTACH is accepted while Detached and every other command while Attached (R230). -/
theorem State.acceptable_lifecycle {s : State} {cmd : Command} {body : List Op} (h : s.acceptable cmd body) :
    s.status.lc = if cmd = .attach then .detached else .attached := by
  have transfer (ht : s.transferAllowed = true) : s.status.lc = .attached := by
    simp only [State.transferAllowed, Bool.and_eq_true, beq_iff_eq] at ht
    exact ht.1
  cases cmd with
  | attach | detach => exact h.1
  | xferW9 | xferR16 | regWrite | regRead | pktSend => exact transfer h.1
  | powerOn =>
    obtain ⟨hp, -⟩ := h
    simp only [State.powerAllowed, Bool.and_eq_true] at hp
    obtain ⟨⟨ht, -⟩, -⟩ := hp
    exact transfer ht

/-- A control step keeps the invariant of the lifecycle. -/
theorem State.controls_lifecycleInv {s t : State} (hs : s.lifecycleInv) (h : s.controls t) : t.lifecycleInv := by
  intro c₁ hc₁
  cases h with
  | host e v kept status cont =>
    rw [status]
    exact hs c₁ (cont ▸ hc₁)
  | accepted u cmd body same conditions idle status cont =>
    cases cont.symm.trans hc₁
    rw [status, ← State.acceptable_lifecycle conditions, same]
  | goesOn c c' running status cont cmd =>
    cases cont.symm.trans hc₁
    rw [status, cmd, hs c running]
  | writesPState c c' p running status cont cmd =>
    cases cont.symm.trans hc₁
    rw [status, cmd]
    exact hs c running
  | completes c running status cont => cases cont.symm.trans hc₁
  | raises c e running status cont => cases cont.symm.trans hc₁
  | endsAtReserved c running status cont => cases cont.symm.trans hc₁

/-- The changes of the lifecycle that a step other than a reset can make: none, from Detached to Attached or Failed, or
from Attached to Released. -/
def Lifecycle.advances (a b : Lifecycle) : Prop :=
  b = a ∨ (a = .detached ∧ (b = .attached ∨ b = .failed)) ∨ (a = .attached ∧ b = .released)

/-- The end of a command, complete or by an error, advances the lifecycle that it runs in. -/
theorem Lifecycle.advances_of_end {a : Lifecycle} {cmd : Command}
    (h : a = if cmd = .attach then .detached else .attached) :
    a.advances (cmd.lifecycle a) ∧ a.advances (if some cmd = some .attach then .failed else a) := by
  subst h
  cases cmd with
  | attach => exact ⟨.inr (.inl ⟨rfl, .inl rfl⟩), .inr (.inl ⟨rfl, .inr rfl⟩)⟩
  | detach => exact ⟨.inr (.inr ⟨rfl, rfl⟩), .inl rfl⟩
  | xferW9 | xferR16 | regWrite | regRead | pktSend | powerOn => exact ⟨.inl rfl, .inl rfl⟩

/-- Under the invariant a control step advances the lifecycle. -/
theorem State.controls_lifecycle {s t : State} (hs : s.lifecycleInv) (h : s.controls t) :
    s.status.lc.advances t.status.lc := by
  cases h with
  | host e v kept status => exact .inl (status ▸ rfl)
  | accepted u cmd body same conditions idle status => exact .inl (status ▸ rfl)
  | goesOn c c' running status => exact .inl (status ▸ rfl)
  | writesPState c c' p running status => exact .inl (status ▸ rfl)
  | completes c running status => exact status ▸ (Lifecycle.advances_of_end (hs c running)).1
  | raises c e running status => exact status ▸ (Lifecycle.advances_of_end (hs c running)).2
  | endsAtReserved c running status => exact .inl (status ▸ rfl)

/-- Settles O57: a reset leaves no command in progress, and a control step keeps the invariant and advances the
lifecycle. -/
theorem lifecycleIsOneWay : Obligations.LifecycleIsOneWay := by
  intro s t hs h
  obtain ⟨rest, hd, rfl⟩ | hc := step_controls h
  · exact ⟨fun c hc => (nomatch hc), fun hr => absurd hd (hr rest)⟩
  · exact ⟨State.controls_lifecycleInv hs hc, fun _ => State.controls_lifecycle hs hc⟩

end Sys2Proof.Machine

/-! ## Proofs: the host window's registers (O6 to O9, O11)

An aligned host write that is due is one step, to the register, the buffer or the reserved offset that R31's map names.
What is left are the bits that each register holds of the written word. -/

namespace Sys2Proof.Machine

/-! ### Host accesses by target (R31, R231) -/

/-- The step of a host write that is due, at an aligned offset other than CMD. -/
theorem step_hostWrite {s : State} {off : Offset} {d : Word} {rest : List HostSlot} (ha : alignedOffset off = true)
    (h0 : off ≠ 0) (hd : s.due (.write off d) rest) :
    step s = .next (State.hostWrite { s with host := rest } off d) := by
  refine step_goto ?_
  rw [State.next_of_due hd, State.hostNext, if_pos ha, if_neg h0]

theorem State.hostWrite_reg {s : State} {off : Offset} {r : HostReg} (d : Word) (hb : s.busy = false)
    (hr : windowTarget off.toNat = .reg r) : s.hostWrite off d = s.writeReg d r := by
  simp [State.hostWrite, hb, hr]

theorem State.hostWrite_reserved {s : State} {off : Offset} (d : Word) (hb : s.busy = false)
    (hr : windowTarget off.toNat = .reserved) : s.hostWrite off d = s := by
  simp [State.hostWrite, hb, hr]

theorem State.hostRead_reg (s : State) {off : Offset} {r : HostReg} (hr : windowTarget off.toNat = .reg r) :
    s.hostRead off = s.readReg r := by
  simp [State.hostRead, hr]

theorem State.hostRead_reserved (s : State) {off : Offset} (hr : windowTarget off.toNat = .reserved) :
    s.hostRead off = 0 := by
  simp [State.hostRead, hr]

/-- The step of an idle host write that is due, to a register other than CMD. -/
theorem step_writeReg {s : State} {off : Offset} {d : Word} {rest : List HostSlot} {r : HostReg} (hb : s.busy = false)
    (ha : alignedOffset off = true) (h0 : off ≠ 0) (hr : windowTarget off.toNat = .reg r)
    (hd : s.due (.write off d) rest) : step s = .next (State.writeReg { s with host := rest } d r) := by
  rw [step_hostWrite ha h0 hd, State.hostWrite_reg (s := { s with host := rest }) d hb hr]

/-! ### Reserved and read-only offsets (R44) -/

/-- Settles O6: a reserved offset and a read-only register have no effect to write. -/
theorem reservedAndReadOnlyOffsetsIgnoreWrites : Obligations.ReservedAndReadOnlyOffsetsIgnoreWrites := by
  intro s off ha
  refine ⟨fun hr => s.hostRead_reserved (windowTarget_reserved hr), fun h d rest hb hd => ?_⟩
  obtain hr | hm := or_assoc.mpr h
  · have h0 : off ≠ 0 := by
      rintro rfl
      simp at hr
    rw [step_hostWrite ha h0 hd, State.hostWrite_reserved (s := { s with host := rest }) d hb
      (windowTarget_reserved hr)]
  · simp only [List.mem_cons, List.not_mem_nil, or_false] at hm
    obtain rfl | rfl | rfl | rfl := hm
    · exact step_writeReg (r := .status) hb ha (by decide) rfl hd
    · exact step_writeReg (r := .rdata) hb ha (by decide) rfl hd
    · exact step_writeReg (r := .rraw) hb ha (by decide) rfl hd
    · exact step_writeReg (r := .sp) hb ha (by decide) rfl hd

/-! ### The defined bits of a written word (R36, R37, R40 to R43) -/

/-- The n low bits of a word, in place. -/
theorem setWidth_extractLow (d : Word) (n : Nat) :
    (d.extractLsb' 0 n).setWidth 32 = d &&& BitVec.ofNat 32 (2 ^ n - 1) := by
  apply BitVec.eq_of_getLsbD_eq
  intro i hi
  simp only [BitVec.getLsbD_setWidth, BitVec.getLsbD_extractLsb', BitVec.getLsbD_and, BitVec.getLsbD_ofNat,
    Nat.testBit_two_pow_sub_one]
  simp [hi, Bool.and_comm]

theorem getLsbD_flagBit (b : Bool) (i : Nat) : (flagBit b).getLsbD i = (decide (i = 0) && b) := by
  simp [flagBit, BitVec.getLsbD_ofBool]

@[simp] theorem getElem_flagBit (b : Bool) : (flagBit b)[0] = b := by
  simp [flagBit]

/-- A delay profile register holds COUNT and UNIT, the 17 low bits of the word written to it (R42). -/
theorem DelayReg.word_ofWord (d : Word) : (DelayReg.ofWord d).word = d &&& 0x1FFFF := by
  refine Eq.trans ?_ (setWidth_extractLow d 17)
  apply BitVec.eq_of_getLsbD_eq
  intro i hi
  rw [DelayReg.word, DelayReg.ofWord, BitVec.getLsbD_append, BitVec.getLsbD_append, getLsbD_flagBit]
  obtain h | rfl | h := Nat.lt_trichotomy i 16
  · simp [h, hi, show i < 17 by omega]
  · simp
  · simp [show ¬ i < 17 by omega]

/-- BRIGHT reads back the written word if it is legal, and 100 if it is not (R40). -/
theorem setWidth_brightOf (d : Word) : (brightOf d).setWidth 32 = if d.toNat ≤ 100 then d else 100 := by
  unfold brightOf
  by_cases h : d.toNat ≤ 100
  · rw [if_pos h, if_pos h]
    apply BitVec.eq_of_toNat_eq
    simp only [BitVec.toNat_setWidth, BitVec.extractLsb'_toNat, Nat.shiftRight_zero]
    omega
  · rw [if_neg h, if_neg h]
    rfl

/-- Settles O8: the stored value is `brightOf` of the word. -/
theorem brightStoresALegalValue : Obligations.BrightStoresALegalValue :=
  fun _ d _ hb hd => ⟨_, step_writeReg (r := .bright) hb rfl (by decide) rfl hd, rfl, setWidth_brightOf d⟩

/-- Settles O9: the write looks at LC alone. -/
theorem nrailsIsLockedOutsideDetached : Obligations.NrailsIsLockedOutsideDetached := by
  intro s d rest hb hd
  refine ⟨_, step_writeReg (r := .nrails) hb rfl (by decide) rfl hd, fun hlc => ?_, fun hlc => ?_⟩
  · rw [State.writeReg, if_pos hlc]
    exact ⟨rfl, setWidth_extractLow d 3⟩
  · rw [State.writeReg, if_neg hlc]
    exact ⟨rfl, rfl⟩

/-- Settles O7: each register stores its bits of the word, and a read returns them with zeros above. -/
theorem registerWritesStoreTheDefinedBits : Obligations.RegisterWritesStoreTheDefinedBits := by
  intro s d rest hb
  exact ⟨fun hd => ⟨_, step_writeReg (r := .arg0) hb rfl (by decide) rfl hd, rfl, setWidth_extractLow d 16⟩,
    fun hd => ⟨_, step_writeReg (r := .arg1) hb rfl (by decide) rfl hd, rfl, setWidth_extractLow d 16⟩,
    fun hd => ⟨_, step_writeReg (r := .tEn) hb rfl (by decide) rfl hd, rfl, DelayReg.word_ofWord d⟩,
    fun hd => ⟨_, step_writeReg (r := .tRstLo) hb rfl (by decide) rfl hd, rfl, DelayReg.word_ofWord d⟩,
    fun hd => ⟨_, step_writeReg (r := .tRstHi) hb rfl (by decide) rfl hd, rfl, DelayReg.word_ofWord d⟩,
    fun hd => ⟨_, step_writeReg (r := .ph1) hb rfl (by decide) rfl hd, rfl, setWidth_extractLow d 16⟩,
    fun hd => ⟨_, step_writeReg (r := .ph2) hb rfl (by decide) rfl hd, rfl, setWidth_extractLow d 16⟩,
    fun hd => ⟨_, step_writeReg (r := .ph3) hb rfl (by decide) rfl hd, rfl, setWidth_extractLow d 16⟩⟩

/-! ### The STATUS word (R33, R34, R270) -/

/-- The fields of more than one bit, and the reserved bits above them. -/
theorem State.statusWord_fields (s : State) :
    s.statusWord.extractLsb' 1 2 = s.status.lc.code ∧ s.statusWord.extractLsb' 4 3 = s.status.pstate.code ∧
      s.statusWord.extractLsb' 8 4 = s.errRead.code ∧ s.statusWord.extractLsb' 14 18 = 0 := by
  rw [State.statusWord]
  refine ⟨?_, ?_, ?_, ?_⟩ <;>
  · simp only [BitVec.extractLsb'_append_eq_ite]
    simp

/-- The fields of one bit, and the reserved bit 3. -/
theorem State.statusWord_flags (s : State) :
    s.statusWord.getLsbD 0 = s.busy ∧ s.statusWord.getLsbD 3 = false ∧ s.statusWord.getLsbD 7 = s.status.aborted ∧
      s.statusWord.getLsbD 12 = s.status.lineFault ∧ s.statusWord.getLsbD 13 = s.status.busyViol := by
  rw [State.statusWord]
  refine ⟨?_, ?_, ?_, ?_, ?_⟩ <;>
  · simp only [BitVec.getLsbD_append]
    simp

/-- Codes 10 to 15 are never produced (R270). -/
theorem ErrCode.code_le (e : ErrCode) : e.code.toNat ≤ 9 := by
  cases e <;> decide

/-- Settles O11: the fields of the word, and the tables of their codes. -/
theorem statusWordFields : Obligations.StatusWordFields := by
  intro s
  obtain ⟨hlc, hps, herr, hres⟩ := s.statusWord_fields
  obtain ⟨hbusy, h3, hab, hlf, hbv⟩ := s.statusWord_flags
  refine ⟨hbusy, hlc, h3, hps, hab, herr, fun hc => ?_, fun c hc => ?_, hlf, hbv, hres,
    s.hostRead_reg (r := .status) rfl, rfl, rfl, rfl, s.errRead.code_le⟩
  · simp [State.errRead, hc]
  · simp [State.errRead, hc]

end Sys2Proof.Machine

/-! ## Proofs: bytes the host never wrote (O17)

PKT_SEND reads its packet byte by byte; validation walks over legal instructions to the first byte it cannot read. The
walk over the legal instructions is one lemma, `State.validate_legalUpTo`; what validation finds after them is an equation
for its next round. -/

namespace Sys2Proof.Machine

/-! ### Reading a packet (R49, R239) -/

/-- A range with an unwritten byte reads as the first one of them. -/
theorem Mem.readMany_unwritten (m : Mem) {n a k : Nat} (hk : k < n) (h : Mem.read m (a + k) = none) :
    ∃ j, j ≤ k ∧ Mem.read m (a + j) = none ∧ (∀ i, i < j → (Mem.read m (a + i)).isSome = true) ∧
      Mem.readMany m n a = .error (a + j) := by
  induction n generalizing a k with
  | zero => exact absurd hk (Nat.not_lt_zero k)
  | succ n ih =>
    cases hr : Mem.read m a with
    | none => exact ⟨0, Nat.zero_le k, hr, fun i hi => absurd hi (Nat.not_lt_zero i), by simp [Mem.readMany, hr]⟩
    | some b =>
      cases k with
      | zero => simp [hr] at h
      | succ k =>
        obtain ⟨j, hj, hnone, hsome, he⟩ := ih (a := a + 1) (k := k) (by omega) (by rwa [Nat.add_right_comm])
        have shift (i : Nat) : a + (i + 1) = a + 1 + i := by omega
        refine ⟨j + 1, by omega, by rwa [shift], fun i hi => ?_, by rw [shift, Mem.readMany, hr, he]⟩
        cases i with
        | zero => simp [hr]
        | succ i =>
          rw [shift]
          exact hsome i (by omega)

/-- PKT_SEND within its conditions faults where the read of its packet does. -/
theorem execPktSend_unwritten {s : State} {off : Nat} (hs : s.idleAttached) (hc : s.packetCountOk = true)
    (h : Mem.readMany s.mem s.arg0.toNat Config.pktBufBase = .error off) :
    exec .pktSend s = .fault (.unwrittenBuffer off) := by
  obtain ⟨hidle, ht⟩ := hs
  change execPktSend s = _
  rw [execPktSend, ht, hc, State.command_idle s _ hidle, h]

/-! ### One round of validation (R195) -/

section Round

variable {p : Params} {m : Mem} {ph : Phase} {fuel pc : Nat} {latch : Bool}

theorem validateFrom_unwritten (hpc : pc < 4096) (h : scriptByte m pc = none) :
    validateFrom p m ph (fuel + 1) pc latch = .unwritten pc := by
  simp [validateFrom, h, show ¬ 4096 ≤ pc by omega]

theorem validateFrom_regw_unwritten (hpc : pc + 3 < 4096) (h : scriptByte m pc = some 0x01)
    (hid : scriptByte m (pc + 1) = none) : validateFrom p m ph (fuel + 1) pc latch = .unwritten (pc + 1) := by
  simp [validateFrom, h, hid, show ¬ 4096 ≤ pc by omega, show ¬ 4096 ≤ pc + 3 by omega]

theorem validateFrom_pkt_unwritten (hph : ph = .two) (hpc : pc + 1 < 4096) (h : scriptByte m pc = some 0x02)
    (hn : scriptByte m (pc + 1) = none) : validateFrom p m ph (fuel + 1) pc latch = .unwritten (pc + 1) := by
  simp [validateFrom, h, hn, hph, show ¬ 4096 ≤ pc by omega, show ¬ 4096 ≤ pc + 1 by omega]

theorem validateFrom_regw {id : Byte} (hpc : pc + 4 ≤ 4096) (h : scriptByte m pc = some 0x01)
    (hid : scriptByte m (pc + 1) = some id) (ho : ¬ (id = p.regPllCfg ∧ (latch || id == p.regPllCtrl) = true)) :
    validateFrom p m ph (fuel + 1) pc latch = validateFrom p m ph fuel (pc + 4) (latch || id == p.regPllCtrl) := by
  rw [validateFrom]
  simp only [h, hid, if_neg ho, if_neg (show ¬ 4096 ≤ pc by omega), if_neg (show ¬ 4096 ≤ pc + 3 by omega)]
  rfl

theorem validateFrom_pkt {n : Byte} (hph : ph = .two) (hpc : pc + 2 + n.toNat ≤ 4096) (h : scriptByte m pc = some 0x02)
    (hn : scriptByte m (pc + 1) = some n) (h0 : n ≠ 0#8) :
    validateFrom p m ph (fuel + 1) pc latch = validateFrom p m ph fuel (pc + 2 + n.toNat) latch := by
  rw [validateFrom]
  simp [h, hn, hph, h0, show ¬ 4096 ≤ pc by omega, show ¬ 4096 ≤ pc + 1 by omega,
    show ¬ 4096 ≤ pc + 1 + n.toNat by omega]

theorem validateFrom_delay {op : Byte} (hop : op = 0x03 ∨ op = 0x04) (hpc : pc + 3 ≤ 4096)
    (h : scriptByte m pc = some op) :
    validateFrom p m ph (fuel + 1) pc latch = validateFrom p m ph fuel (pc + 3) latch := by
  rw [validateFrom]
  obtain rfl | rfl := hop <;> simp [h, show ¬ 4096 ≤ pc by omega, show ¬ 4096 ≤ pc + 2 by omega]

end Round

/-! ### The walk over legal instructions (R195, R197) -/

/-- The instruction writes the PLL latch, so that validation has seen the latch after it (R195). -/
def latchesPll (p : Params) : Instr → Bool
  | .regw id _ => id == p.regPllCtrl
  | _ => false

/-- Validation passes a legal instruction of which it reads written bytes, unless that writes the PLL configuration after
the latch. -/
theorem validateFrom_inBody {p : Params} {m : Mem} {ph : Phase} {fuel pc : Nat} {latch : Bool} {i : Instr}
    (hb : inBody ph i) (hlen : pc + scriptLengthOf i ≤ 4096)
    (hhead : ∀ k (h : k < (headOf i).length), scriptByte m (pc + k) = some (headOf i)[k])
    (hids : p.regPllCfg ≠ p.regPllCtrl) (hlatch : latch = true → ∀ u, i ≠ .regw p.regPllCfg u) :
    validateFrom p m ph (fuel + 1) pc latch =
      validateFrom p m ph fuel (pc + scriptLengthOf i) (latch || latchesPll p i) := by
  cases i with
  | regw id v =>
    have hop : scriptByte m pc = some 0x01 := hhead 0 (by decide : 0 < 2)
    have hid : scriptByte m (pc + 1) = some id := hhead 1 (by decide : 1 < 2)
    refine validateFrom_regw hlen hop hid ?_
    rintro ⟨rfl, hl⟩
    rw [Bool.or_eq_true, beq_iff_eq] at hl
    obtain hl | hl := hl
    · exact hlatch hl v rfl
    · exact hids hl
  | pkt payload =>
    obtain ⟨hph, h1, h255⟩ := hb
    have hop : scriptByte m pc = some 0x02 := hhead 0 (by decide : 0 < 2)
    have hn : scriptByte m (pc + 1) = some (BitVec.ofNat 8 payload.length) := hhead 1 (by decide : 1 < 2)
    have hcount : (BitVec.ofNat 8 payload.length).toNat = payload.length := by
      rw [BitVec.toNat_ofNat]
      omega
    have h0 : BitVec.ofNat 8 payload.length ≠ 0#8 := fun h => by
      rw [h, BitVec.toNat_zero] at hcount
      omega
    have hlen : pc + 2 + payload.length ≤ 4096 := by
      rw [Nat.add_assoc]
      exact hlen
    rw [validateFrom_pkt hph (by rwa [hcount]) hop hn h0, hcount, scriptLengthOf,
      show latchesPll p (.pkt payload) = false from rfl, Bool.or_false, Nat.add_assoc]
  | delayMs n =>
    rw [validateFrom_delay (.inl rfl) hlen (hhead 0 (by decide : 0 < 1)), scriptLengthOf,
      show latchesPll p (.delayMs n) = false from rfl, Bool.or_false]
  | delayUs n =>
    rw [validateFrom_delay (.inr rfl) hlen (hhead 0 (by decide : 0 < 1)), scriptLengthOf,
      show latchesPll p (.delayUs n) = false from rfl, Bool.or_false]
  | _ => exact hb.elim

theorem scriptLengthOf_pos {ph : Phase} {i : Instr} (h : inBody ph i) : 1 ≤ scriptLengthOf i := by
  cases i with
  | regw | delayMs | delayUs => simp [scriptLengthOf]
  | pkt payload =>
    rw [scriptLengthOf]
    omega
  | _ => exact h.elim

theorem offsetAfter_cons (a : Nat) (i : Instr) (is : List Instr) :
    offsetAfter a (i :: is) = offsetAfter (a + scriptLengthOf i) is := by
  simp [offsetAfter, Nat.add_assoc]

/-- A script has no room for more instructions than bytes. -/
theorem State.laidOut_length {s : State} {ph : Phase} {a : Nat} {is : List Instr} (h : s.laidOut ph a is) :
    is.length ≤ 4096 - a := by
  induction is generalizing a with
  | nil => exact Nat.zero_le _
  | cons i is ih =>
    obtain ⟨hb, hlen, -, hrest⟩ := h
    have h0 : a + scriptLengthOf i ≤ 4096 := hlen
    have h1 := scriptLengthOf_pos hb
    have h2 := ih hrest
    rw [List.length_cons]
    omega

theorem pllOrdered_tail {p : Params} {i : Instr} {is : List Instr} (h : pllOrdered p (i :: is)) : pllOrdered p is :=
  fun before after v he => h (i :: before) after v (by rw [he, List.cons_append])

theorem pllOrdered_head {p : Params} {i : Instr} {is : List Instr} (h : pllOrdered p (i :: is))
    (hi : latchesPll p i = true) (u : Half) : .regw p.regPllCfg u ∉ is := by
  cases i with
  | regw id v =>
    obtain rfl : id = p.regPllCtrl := eq_of_beq hi
    exact h [] is v rfl u
  | _ => cases hi

/-- Validation walks over a legal listing in PLL order, an instruction a round. -/
theorem validateFrom_laidOut {s : State} {ph : Phase} {a : Nat} {is : List Instr} {latch : Bool} (fuel : Nat)
    (hl : s.laidOut ph a is) (ho : pllOrdered s.cfg is) (hids : s.cfg.regPllCfg ≠ s.cfg.regPllCtrl)
    (hlatch : latch = true → ∀ u, .regw s.cfg.regPllCfg u ∉ is) :
    validateFrom s.cfg s.mem ph (fuel + is.length) a latch =
      validateFrom s.cfg s.mem ph fuel (offsetAfter a is) (latch || is.any (latchesPll s.cfg)) := by
  induction is generalizing a latch with
  | nil => simp [offsetAfter]
  | cons i is ih =>
    obtain ⟨hb, hlen, hhead, hrest⟩ := hl
    have hlatch' : (latch || latchesPll s.cfg i) = true → ∀ u, .regw s.cfg.regPllCfg u ∉ is := by
      intro h u
      rw [Bool.or_eq_true] at h
      obtain h | h := h
      · exact fun hu => hlatch h u (List.mem_cons_of_mem i hu)
      · exact pllOrdered_head ho h u
    calc validateFrom s.cfg s.mem ph (fuel + is.length + 1) a latch
        = validateFrom s.cfg s.mem ph (fuel + is.length) (a + scriptLengthOf i) (latch || latchesPll s.cfg i) :=
          validateFrom_inBody hb hlen hhead hids fun h u he => hlatch h u (he ▸ List.mem_cons_self)
      _ = _ := by rw [ih hrest (pllOrdered_tail ho) hlatch', offsetAfter_cons, List.any_cons, Bool.or_assoc]

/-- Validation of a phase comes to the offset after its legal instructions, with rounds left. -/
theorem State.validate_legalUpTo {s : State} {ph : Phase} {ptr : Half} {is : List Instr} (h : s.legalUpTo ph ptr is) :
    ∃ fuel, validate s.cfg s.mem ph ptr =
      validateFrom s.cfg s.mem ph (fuel + 1) (offsetAfter ptr.toNat is) (is.any (latchesPll s.cfg)) := by
  obtain ⟨hl, ho, hids⟩ := h
  have hlen := State.laidOut_length hl
  obtain ⟨fuel, hf⟩ : ∃ fuel, Config.scriptBytes + 1 = fuel + 1 + is.length :=
    ⟨4096 - is.length, show 4096 + 1 = _ by omega⟩
  refine ⟨fuel, ?_⟩
  rw [validate, hf, validateFrom_laidOut (fuel + 1) hl ho hids (fun h => absurd h Bool.false_ne_true), Bool.false_or]

/-! ### POWER_ON (R206) -/

/-- Step S0 gives the verdict of the first phase that does not pass. -/
theorem State.validateAll_unwritten {s : State} {a : Nat}
    (h : validate s.cfg s.mem .one s.ph1 = .unwritten a ∨
      ((∃ p1, validate s.cfg s.mem .one s.ph1 = .ok p1) ∧
        (validate s.cfg s.mem .two s.ph2 = .unwritten a ∨
          ((∃ p2, validate s.cfg s.mem .two s.ph2 = .ok p2) ∧ validate s.cfg s.mem .three s.ph3 = .unwritten a)))) :
    s.validateAll = .unwritten a := by
  obtain h1 | ⟨⟨p1, h1⟩, h2 | ⟨⟨p2, h2⟩, h3⟩⟩ := h
  · simp [State.validateAll, h1]
  · simp [State.validateAll, h1, h2]
  · simp [State.validateAll, h1, h2, h3]

/-- POWER_ON within its conditions faults where validation does. -/
theorem execPowerOn_unwritten {s : State} {a : Nat} (hc : s.cont = none) (hp : s.powerAllowed = true)
    (h : s.validateAll = .unwritten a) : exec .powerOn s = .fault (.unwrittenBuffer (0x1000 + a)) := by
  change execPowerOn s = _
  rw [execPowerOn, hp, State.command_idle s _ hc, State.afterValidation, h]

/-- Settles O17: PKT_SEND by the read of its packet, validation by its walk over the legal instructions and one round
more, and POWER_ON by its first phase that does not pass. -/
theorem unwrittenBufferByteFaults : Obligations.UnwrittenBufferByteFaults := by
  refine ⟨fun s k hs h1 h256 hk hnone => ?packet, fun s ph ptr is pc hl hpc => ?walk, fun s a hc hp h =>
    execPowerOn_unwritten hc hp (State.validateAll_unwritten h)⟩
  case packet =>
    obtain ⟨j, hj, hfirst, hbefore, he⟩ := Mem.readMany_unwritten s.mem hk hnone
    have hcount : s.packetCountOk = true := by simp [State.packetCountOk, h1, h256]
    exact ⟨j, hj, hfirst, hbefore, execPktSend_unwritten hs hcount he⟩
  case walk =>
    obtain ⟨fuel, he⟩ := State.validate_legalUpTo hl
    rw [he, ← hpc]
    exact ⟨fun hlt h => validateFrom_unwritten hlt h, fun hlt h hid => validateFrom_regw_unwritten hlt h hid,
      fun hph hlt h hn => validateFrom_pkt_unwritten hph hlt h hn⟩

end Sys2Proof.Machine

/-! ## Proofs: host accesses to the buffers, and refused accesses (O5, O10)

A host access of the wrong alignment or width is barred before its target is looked at. A word write to a buffer is
`Mem.writeWord`, whose four bytes a read puts together again. -/

namespace Sys2Proof.Machine

/-! ### Refused accesses (R74, R273) -/

theorem step_bar {s : State} {r : Refusal} (h : s.next = .bar r) : step s = .refused r := by
  simp [step, h, Next.outcome]

theorem State.hostNext_write_misaligned (s : State) {off : Offset} (d : Word) (rest : List HostSlot)
    (ha : alignedOffset off = false) : s.hostNext (.write off d) rest = .bar (.hostBusError off) := by
  simp [State.hostNext, ha]

theorem State.hostNext_read_misaligned (s : State) {off : Offset} (rest : List HostSlot)
    (ha : alignedOffset off = false) : s.hostNext (.read off) rest = .bar (.hostBusError off) := by
  simp [State.hostNext, ha]

/-- Settles O5: the access that is due is what comes next, and it is barred. -/
theorem misalignedOrNarrowAccessIsRefused : Obligations.MisalignedOrNarrowAccessIsRefused := by
  intro s off rest
  refine ⟨fun d ha hd => step_bar ?_, fun ha hd => step_bar ?_, fun n hd => step_bar ?_⟩
  · rw [State.next_of_due hd, s.hostNext_write_misaligned d rest ha]
  · rw [State.next_of_due hd, s.hostNext_read_misaligned rest ha]
  · rw [State.next_of_due hd, State.hostNext]

/-! ### Words of a buffer (R72, R73) -/

/-- A word is its four bytes, the lowest last. -/
theorem append_extractBytes (d : Word) :
    d.extractLsb' 24 8 ++ (d.extractLsb' 16 8 ++ (d.extractLsb' 8 8 ++ d.extractLsb' 0 8)) = d := by
  rw [BitVec.extractLsb'_append_extractLsb'_eq_extractLsb' (show 8 = 0 + 8 from rfl),
    BitVec.extractLsb'_append_extractLsb'_eq_extractLsb' (show 16 = 0 + (8 + 8) from rfl),
    BitVec.extractLsb'_append_extractLsb'_eq_extractLsb' (show 24 = 0 + (8 + (8 + 8)) from rfl)]
  exact BitVec.extractLsb'_eq_self

theorem State.hostWrite_buffer {s : State} {off : Offset} (d : Word) (hb : s.busy = false)
    (hr : windowTarget off.toNat = .buffer) :
    s.hostWrite off d = { s with mem := Mem.writeWord s.mem off.toNat d } := by
  simp [State.hostWrite, hb, hr]

theorem State.hostRead_buffer (s : State) {off : Offset} (hr : windowTarget off.toNat = .buffer) :
    s.hostRead off = s.bufferWord off.toNat := by
  simp [State.hostRead, hr]

/-- The step of an idle host write that is due, to a buffer. -/
theorem step_writeBuffer {s : State} {off : Offset} {d : Word} {rest : List HostSlot} (hb : s.busy = false)
    (ha : alignedOffset off = true) (hr : windowTarget off.toNat = .buffer) (hd : s.due (.write off d) rest) :
    step s = .next { s with host := rest, mem := Mem.writeWord s.mem off.toNat d } := by
  have h0 : off ≠ 0 := by
    rintro rfl
    exact absurd hr (by decide)
  rw [step_hostWrite ha h0 hd, State.hostWrite_buffer (s := { s with host := rest }) d hb hr]

theorem State.byteAt_of_read {s : State} {a : Nat} {b : Byte} (h : Mem.read s.mem a = some b) : s.byteAt a = b := by
  simp [State.byteAt, h]

/-- Byte k of a word just written is its bits from 8k on (R73). -/
theorem Mem.read_writeWord_byte (m : Mem) (off : Nat) (d : Word) {k : Nat} (hk : k < 4) :
    Mem.read (Mem.writeWord m off d) (off + k) = some (d.extractLsb' (8 * k) 8) := by
  obtain ⟨h0, h1, h2, h3⟩ := Mem.read_writeWord_same m off d
  match k, hk with
  | 0, _ => exact h0
  | 1, _ => exact h1
  | 2, _ => exact h2
  | 3, _ => exact h3

/-- A buffer word reads as the word last written there. -/
theorem State.bufferWord_writeWord {s : State} {m : Mem} {off : Nat} {d : Word} (hm : s.mem = Mem.writeWord m off d) :
    s.bufferWord off = d := by
  have byte {k : Nat} (hk : k < 4) : s.byteAt (off + k) = d.extractLsb' (8 * k) 8 :=
    State.byteAt_of_read (by rw [hm, Mem.read_writeWord_byte m off d hk])
  calc s.bufferWord off
      = d.extractLsb' 24 8 ++ (d.extractLsb' 16 8 ++ (d.extractLsb' 8 8 ++ d.extractLsb' 0 8)) := by
        rw [State.bufferWord, byte (k := 3) (by decide), byte (k := 2) (by decide), byte (k := 1) (by decide),
          show s.byteAt off = _ from byte (k := 0) (by decide)]
    _ = d := append_extractBytes d

/-- PKTBUF and SCRIPT, as the offsets R31 gives them. -/
theorem windowTarget_of_bufferRange {off : Offset}
    (h : (0x100 ≤ off.toNat ∧ off.toNat < 0x200) ∨ 0x1000 ≤ off.toNat) : windowTarget off.toNat = .buffer := by
  have hlt : off.toNat < 0x2000 := off.isLt
  refine windowTarget_buffer ?_
  simp only [bufferOffset, Bool.or_eq_true, Bool.and_eq_true, decide_eq_true_eq]
  omega

/-- Settles O10: the write is `Mem.writeWord`, and its laws say what the bytes then read. -/
theorem bufferWordWriteReadsBack : Obligations.BufferWordWriteReadsBack := by
  intro s off d rest hb ha hoff hd
  have hr := windowTarget_of_bufferRange hoff
  refine ⟨_, step_writeBuffer hb ha hr hd, rfl, fun k hk => Mem.read_writeWord_byte s.mem off.toNat d hk,
    fun a h => Mem.read_writeWord_other s.mem off.toNat a d h, ?_⟩
  rw [State.hostRead_buffer _ hr]
  exact State.bufferWord_writeWord rfl

end Sys2Proof.Machine

/-! ## Proofs: the encodings (O48, O49, O12, O28, O29, O47)

Each of the three encodings has an equation that decodes what `encode` writes: a word for `CMD`, a wire word, and, for a
script instruction, its bytes with any bytes after them. For the script the other direction is an inversion of
`decodeScript`. -/

namespace Sys2Proof

/-! ### Host words (R110, R112) -/

theorem opcOf_setWidth (opc : Byte) : opcOf (opc.setWidth 32) = opc := by
  refine BitVec.eq_of_toNat_eq ?_
  rw [opcOf, BitVec.extractLsb'_toNat, BitVec.toNat_setWidth, Nat.shiftRight_zero]
  omega

/-- The codes that R110's table leaves out, by their ranges (R112). -/
theorem listedHostCode_eq_false_iff (opc : Byte) : listedHostCode opc = false ↔
    opc.toNat = 0x00 ∨ (0x03 ≤ opc.toNat ∧ opc.toNat ≤ 0x0F) ∨ (0x12 ≤ opc.toNat ∧ opc.toNat ≤ 0x1F) ∨
      (0x23 ≤ opc.toNat ∧ opc.toNat ≤ 0x2F) ∨ 0x31 ≤ opc.toNat := by
  simp only [listedHostCode, Bool.or_eq_false_iff, beq_eq_false_iff_ne, ne_eq, ← BitVec.toNat_inj]
  simp only [BitVec.reduceToNat]
  omega

/-- A reserved code decodes to its own row, whatever the upper bits are (R32, R112). -/
theorem decodeHost_reserved {d : Word} (h : listedHostCode (opcOf d) = false) :
    decodeHost d = .reservedHost (opcOf d) := by
  have hopc := (listedHostCode_eq_false_iff (opcOf d)).mp h
  unfold decodeHost
  split
  case h_9 => rfl
  all_goals omega

theorem decodeHost_encode {p : Params} {i : Instr} {d : Word} (hwf : i.wf = true) (he : encode p i = .hostWrite d) :
    decodeHost d = i := by
  cases i with
  | reservedHost opc =>
    cases he
    have hl : listedHostCode (opcOf (opc.setWidth 32)) = false := by
      rw [opcOf_setWidth]
      simpa [Instr.wf] using hwf
    rw [decodeHost_reserved hl, opcOf_setWidth]
  | attach | detach | xferW9 | xferR16 | regWrite | regRead | pktSend | powerOn =>
    cases he
    rfl
  | _ => cases he

/-! ### Wire words (R102, R103) -/

@[simp] theorem Role.ofCode_code (r : Role) : Role.ofCode r.code = some r := by
  cases r <;> rfl

theorem Role.ofCode_eq_some_iff (c : BitVec 3) (r : Role) : Role.ofCode c = some r ↔ c = r.code := by
  refine ⟨fun h => ?_, fun h => by rw [h, Role.ofCode_code]⟩
  unfold Role.ofCode at h
  split at h <;> cases h <;> exact BitVec.eq_of_toNat_eq ‹_›

theorem decodeWire_wireWord (p : Params) (r : Role) (b : Byte) :
    decodeWire p r.code (wireWord p r b) = .ok (r.instr b) := by
  have htag : (wireWord p r b).extractLsb' 8 1 = p.tag r := BitVec.extractLsb'_append_eq_left
  have hbyte : (wireWord p r b).extractLsb' 0 8 = b := BitVec.extractLsb'_append_eq_right
  simp [decodeWire, htag, hbyte]

theorem decodeWire_encode {p : Params} {i : Instr} {c : BitVec 3} {w : Word9} (he : encode p i = .wire c w) :
    decodeWire p c w = .ok i := by
  cases i with
  | wireCmd b =>
    cases he
    exact decodeWire_wireWord p .cmd b
  | wireData b =>
    cases he
    exact decodeWire_wireWord p .data b
  | wireDsi b =>
    cases he
    exact decodeWire_wireWord p .dsi b
  | _ => cases he

/-! ### Script bytes (R121 to R123) -/

theorem decodeScript_endPhase (bs : List Byte) : decodeScript (0x00 :: bs) = .ok (.endPhase, bs) := rfl

theorem decodeScript_regw (id lo hi : Byte) (bs : List Byte) :
    decodeScript (0x01 :: id :: lo :: hi :: bs) = .ok (.regw id (half hi lo), bs) := rfl

theorem decodeScript_pkt {n : Byte} {payload : List Byte} (bs : List Byte) (hn : n.toNat = payload.length)
    (h1 : 1 ≤ payload.length) : decodeScript (0x02 :: n :: (payload ++ bs)) = .ok (.pkt payload, bs) := by
  have h0 : n ≠ 0#8 := by
    rintro rfl
    exact absurd hn (Nat.ne_of_lt h1)
  simp [decodeScript, h0, hn, splitExact_append]

theorem decodeScript_delayMs (lo hi : Byte) (bs : List Byte) :
    decodeScript (0x03 :: lo :: hi :: bs) = .ok (.delayMs (half hi lo), bs) := rfl

theorem decodeScript_delayUs (lo hi : Byte) (bs : List Byte) :
    decodeScript (0x04 :: lo :: hi :: bs) = .ok (.delayUs (half hi lo), bs) := rfl

theorem decodeScript_reserved {op : Byte} (bs : List Byte) (h : listedScriptOpcode op = false) :
    decodeScript (op :: bs) = .ok (.reservedScript op, bs) := by
  have hop : ¬ op.toNat ≤ 4 := of_decide_eq_false h
  unfold decodeScript
  split
  case h_1 => contradiction
  case h_2 he =>
    cases he
    split
    case h_6 => rfl
    all_goals omega

/-- A payload's count byte holds its length (R121). -/
theorem toNat_payloadCount {payload : List Byte} (h : payload.length ≤ 255) :
    (BitVec.ofNat 8 payload.length).toNat = payload.length := by
  rw [BitVec.toNat_ofNat]
  omega

/-- The script decoder reads an instruction's own bytes and leaves the bytes after them. -/
theorem decodeScript_encode {p : Params} {i : Instr} {front : List Byte} (rest : List Byte) (hwf : i.wf = true)
    (he : encode p i = .script front) : decodeScript (front ++ rest) = .ok (i, rest) := by
  cases i with
  | endPhase =>
    cases he
    exact decodeScript_endPhase rest
  | regw id value =>
    cases he
    exact (decodeScript_regw ..).trans (by rw [half_bytes]; rfl)
  | pkt payload =>
    cases he
    simp only [Instr.wf, Bool.and_eq_true, decide_eq_true_eq] at hwf
    obtain ⟨h1, h255⟩ := hwf
    exact decodeScript_pkt rest (toNat_payloadCount h255) h1
  | delayMs count =>
    cases he
    exact (decodeScript_delayMs ..).trans (by rw [half_bytes]; rfl)
  | delayUs count =>
    cases he
    exact (decodeScript_delayUs ..).trans (by rw [half_bytes]; rfl)
  | reservedScript op =>
    cases he
    exact decodeScript_reserved rest (by simpa [Instr.wf] using hwf)
  | _ => cases he

/-- Settles O48: each encoding's decoder reads what the encoder writes for it. -/
theorem decodeOfEncodeIsTheInstruction : Obligations.DecodeOfEncodeIsTheInstruction := by
  intro p i hwf
  cases he : encode p i with
  | hostWrite d => rw [decode, decodeHost_encode hwf he]
  | script bs => rw [decode, ← List.append_nil bs, decodeScript_encode [] hwf he]
  | wire c w => rw [decode, decodeWire_encode he]
  | readTransfer =>
    cases i with
    | read16 => rfl
    | _ => cases he

/-- Settles O49: each row of R121's table, read back from the branch of the decoder that took it. -/
theorem scriptBytesAreTheEncodersBytes : Obligations.ScriptBytesAreTheEncodersBytes := by
  intro p bs rest i h
  unfold decodeScript at h
  split at h
  · cases h
  · rename_i op bs
    split at h
    · rename_i ho
      cases h
      refine ⟨rfl, [op], rfl, ?_⟩
      rw [(BitVec.toNat_eq_nat.mp ho).2]
      rfl
    · rename_i ho
      split at h <;> cases h
      rename_i id lo hi
      refine ⟨rfl, [op, id, lo, hi], rfl, ?_⟩
      rw [(BitVec.toNat_eq_nat.mp ho).2, encode, lowByte_half, highByte_half]
      rfl
    · rename_i ho
      split at h
      · cases h
      · rename_i n bs
        split at h
        · cases h
        · rename_i hn
          split at h <;> cases h
          rename_i payload hs
          obtain ⟨rfl, hlen⟩ := splitExact_some hs
          have h1 : n.toNat ≠ 0 := fun h0 => hn (BitVec.eq_of_toNat_eq h0)
          have h255 : n.toNat < 256 := n.isLt
          refine ⟨?_, op :: n :: payload, rfl, ?_⟩
          · simp only [Instr.wf, Bool.and_eq_true, decide_eq_true_eq]
            omega
          · rw [(BitVec.toNat_eq_nat.mp ho).2, encode, hlen, BitVec.ofNat_toNat, BitVec.setWidth_eq]
            rfl
    · rename_i ho
      split at h <;> cases h
      rename_i lo hi
      refine ⟨rfl, [op, lo, hi], rfl, ?_⟩
      rw [(BitVec.toNat_eq_nat.mp ho).2, encode, lowByte_half, highByte_half]
      rfl
    · rename_i ho
      split at h <;> cases h
      rename_i lo hi
      refine ⟨rfl, [op, lo, hi], rfl, ?_⟩
      rw [(BitVec.toNat_eq_nat.mp ho).2, encode, lowByte_half, highByte_half]
      rfl
    · rename_i h0 h1 h2 h3 h4
      cases h
      refine ⟨?_, [op], rfl, rfl⟩
      have hop : ¬ op.toNat ≤ 4 := by
        simp only [imp_false] at h0 h1 h2 h3 h4
        omega
      simp [Instr.wf, listedScriptOpcode, hop]

/-- Settles O47: the decoders compute on these words. -/
theorem wordsOfTheTablesDecode : Obligations.WordsOfTheTablesDecode := by
  unfold Obligations.WordsOfTheTablesDecode
  decide

/-- Settles O28: a code has a role when it is that role's. -/
theorem roleCodesAreOneHot : Obligations.RoleCodesAreOneHot :=
  ⟨rfl, rfl, rfl, Role.ofCode_eq_some_iff⟩

namespace Machine

/-! ### Their meanings: reserved host codes and transfers (R112, R165) -/

theorem exec_reservedHost_idle {s : State} (opc : Byte) (hb : s.busy = false) :
    exec (.reservedHost opc) s = .next { s with status.err := .illegalCmd } := by
  change execReservedHost opc s = _
  simp [execReservedHost, hb, State.reject]

/-- Settles O12: the word decodes to the reserved row, and its meaning while idle is the rejection. -/
theorem reservedHostCodesAreRejected : Obligations.ReservedHostCodesAreRejected := by
  refine ⟨listedHostCode_eq_false_iff, fun s opc hb => exec_reservedHost_idle opc hb, fun s d rest hb hd hdue => ?_⟩
  rw [step_run (State.next_of_cmdWrite hdue), decodeHost_reserved hd]
  exact exec_reservedHost_idle (s := { s with host := rest }) _ hb

/-- Settles O29: each starts its transfer in the command in progress. -/
theorem wireInstructionsStartTheirTransfer : Obligations.WireInstructionsStartTheirTransfer := by
  intro s c b hc hx
  have frame (r : Role) : exec (r.instr b) s =
      .next { s with cont := some { c with xfer := some (Xfer.startWrite (wireWord s.cfg r b)) } } := by
    rw [exec_roleInstr, State.inCommand_eq _ hc hx]
  exact ⟨frame .cmd, frame .data, frame .dsi, by rw [exec_read16, State.inCommand_eq _ hc hx]; rfl⟩

end Machine

end Sys2Proof

/-! ## Proofs: validated phases (O22)

A round of validation that leads to a pass reads an instruction that is legal in the phase, and the script decodes to
that instruction there. So the rounds of validation, the listing and the fetches go over the same instructions, and each
statement about a phase that passes is an induction over the rounds. -/

namespace Sys2Proof.Machine

/-! ### What stands at an offset of the script (R122, R180) -/

/-- The script's bytes from an offset on begin with an instruction. -/
def State.holdsAt (s : State) (a : Nat) (i : Instr) : Prop :=
  ∃ rest, decodeScript (s.scriptFrom maxScriptLength a) = .ok (i, rest)

/-- The 16-bit value at an offset of the script, low byte first; its bytes are read whether they were written or not
(R121; notes/assumptions/3.md). -/
def State.halfAt (s : State) (a : Nat) : Half :=
  half (s.byteAt (Config.scriptBase + (a + 1))) (s.byteAt (Config.scriptBase + a))

/-- An instruction that a phase may hold (R123, R196). -/
def legalIn (ph : Phase) (i : Instr) : Prop := i = .endPhase ∨ inBody ph i

theorem inBody_ne_endPhase {ph : Phase} {i : Instr} (h : inBody ph i) : i ≠ .endPhase := by
  rintro rfl
  exact h

theorem legalIn_ne_reservedScript {ph : Phase} {i : Instr} (h : legalIn ph i) (op : Byte) : i ≠ .reservedScript op := by
  rintro rfl
  obtain h | h := h
  · cases h
  · exact h

theorem legalIn_phase {ph : Phase} {i : Instr} (h : legalIn ph i) : ph = .two ∨ ∀ payload, i ≠ .pkt payload := by
  cases i with
  | pkt payload =>
    obtain h | ⟨hph, -⟩ := h
    · cases h
    · exact .inl hph
  | _ => exact .inr fun _ => nofun

theorem legalIn_wf {ph : Phase} {i : Instr} (h : legalIn ph i) : i.wf = true := by
  obtain rfl | h := h
  · rfl
  · cases i with
    | regw | delayMs | delayUs => rfl
    | pkt payload =>
      obtain ⟨-, h1, h255⟩ := h
      simp [Instr.wf, h1, h255]
    | _ => exact h.elim

/-- The script's bytes depend on the buffers alone. -/
theorem State.scriptFrom_congr {s t : State} (hm : t.mem = s.mem) (he : t.epoch = s.epoch) (n a : Nat) :
    t.scriptFrom n a = s.scriptFrom n a := by
  induction n generalizing a with
  | zero => rfl
  | succ n ih => simp only [State.scriptFrom, State.byteAt, hm, he, ih]

/-- The fetch at pc gives the legal instruction that stands there. -/
theorem State.fetchScript_of_holdsAt {s t : State} {ph : Phase} {a : Nat} {i : Instr} (hm : t.mem = s.mem)
    (he : t.epoch = s.epoch) (hsp : t.sp.toNat = a) (hi : legalIn ph i) (h : s.holdsAt a i) :
    t.fetchScript ph = .ok i := by
  obtain ⟨rest, hd⟩ := h
  rw [← State.scriptFrom_congr hm he, ← hsp] at hd
  exact State.fetchScript_of_decode hd (legalIn_phase hi)

section Holds

variable {s : State} {a : Nat}

theorem State.holdsAt_endPhase (ha : a < 4096) (h : scriptByte s.mem a = some 0x00) : s.holdsAt a .endPhase := by
  refine ⟨s.scriptFrom 256 (a + 1), ?_⟩
  rw [State.scriptFrom_written 256 ha h, decodeScript_endPhase]

theorem State.holdsAt_regw {id : Byte} (ha : a + 4 ≤ 4096) (h : scriptByte s.mem a = some 0x01)
    (hid : scriptByte s.mem (a + 1) = some id) : s.holdsAt a (.regw id (s.halfAt (a + 2))) := by
  refine ⟨s.scriptFrom 253 (a + 4), ?_⟩
  rw [State.scriptFrom_written 256 (by omega) h, State.scriptFrom_written 255 (by omega) hid,
    State.scriptFrom_succ s 254 (by omega), State.scriptFrom_succ s 253 (by omega)]
  exact decodeScript_regw ..

theorem State.holdsAt_pkt {n : Byte} (ha : a + 2 + n.toNat ≤ 4096) (h : scriptByte s.mem a = some 0x02)
    (hn : scriptByte s.mem (a + 1) = some n) (h0 : n ≠ 0) :
    s.holdsAt a (.pkt (s.scriptFrom n.toNat (a + 2))) := by
  have hlen : (s.scriptFrom n.toNat (a + 2)).length = n.toNat := s.length_scriptFrom n.toNat ha
  have h1 : n.toNat ≠ 0 := fun h => h0 (BitVec.eq_of_toNat_eq h)
  have h255 : 255 = n.toNat + (255 - n.toNat) := by
    have := n.isLt
    omega
  refine ⟨s.scriptFrom (255 - n.toNat) (a + 2 + n.toNat), ?_⟩
  rw [State.scriptFrom_written 256 (by omega) h, State.scriptFrom_written 255 (by omega) hn, Nat.add_assoc a 1 1]
  conv_lhs => rw [h255, State.scriptFrom_add s _ _ ha]
  exact decodeScript_pkt _ hlen.symm (by omega)

theorem State.holdsAt_delayMs (ha : a + 3 ≤ 4096) (h : scriptByte s.mem a = some 0x03) :
    s.holdsAt a (.delayMs (s.halfAt (a + 1))) := by
  refine ⟨s.scriptFrom 254 (a + 3), ?_⟩
  rw [State.scriptFrom_written 256 (by omega) h, State.scriptFrom_succ s 255 (by omega),
    State.scriptFrom_succ s 254 (by omega)]
  exact decodeScript_delayMs ..

theorem State.holdsAt_delayUs (ha : a + 3 ≤ 4096) (h : scriptByte s.mem a = some 0x04) :
    s.holdsAt a (.delayUs (s.halfAt (a + 1))) := by
  refine ⟨s.scriptFrom 254 (a + 3), ?_⟩
  rw [State.scriptFrom_written 256 (by omega) h, State.scriptFrom_succ s 255 (by omega),
    State.scriptFrom_succ s 254 (by omega)]
  exact decodeScript_delayUs ..

theorem State.listing_endPhase (h : s.holdsAt a .endPhase) (fuel : Nat) : s.listing (fuel + 1) a = [.endPhase] := by
  obtain ⟨rest, hd⟩ := h
  simp [State.listing, hd]

theorem State.listing_inBody {ph : Phase} {i : Instr} (hi : inBody ph i) (h : s.holdsAt a i) (fuel : Nat) :
    s.listing (fuel + 1) a = i :: s.listing fuel (a + scriptLengthOf i) := by
  obtain ⟨rest, hd⟩ := h
  cases i with
  | regw | pkt | delayMs | delayUs => simp [State.listing, hd, scriptLengthOf, Nat.add_assoc]
  | _ => exact hi.elim

end Holds

/-! ### Rounds of validation that lead to a pass (R195) -/

/-- The END that a passing phase is left at, or a legal instruction after which validation passes with a round less. -/
inductive State.PassRound (s : State) (ph : Phase) (rounds a pc : Nat) : Instr → Prop
  | ends (at_pc : pc = a) : State.PassRound s ph rounds a pc .endPhase
  | goesOn {i : Instr} (latch : Bool) (body : inBody ph i) (fits : a + scriptLengthOf i ≤ 4096)
      (passes : validateFrom s.cfg s.mem ph rounds (a + scriptLengthOf i) latch = .ok pc) :
      State.PassRound s ph rounds a pc i

theorem State.PassRound.legal {s : State} {ph : Phase} {rounds a pc : Nat} {i : Instr}
    (h : s.PassRound ph rounds a pc i) : legalIn ph i := by
  cases h with
  | ends => exact .inl rfl
  | goesOn _ body => exact .inr body

/-- The round over the packet whose bytes stand at the offset. -/
theorem State.PassRound.pkt {s : State} {ph : Phase} {rounds a pc : Nat} {latch : Bool} {n : Byte} (hph : ph = .two)
    (h0 : n ≠ 0) (fits : a + 2 + n.toNat ≤ 4096)
    (passes : validateFrom s.cfg s.mem ph rounds (a + 2 + n.toNat) latch = .ok pc) :
    s.PassRound ph rounds a pc (.pkt (s.scriptFrom n.toNat (a + 2))) := by
  have hlen : (s.scriptFrom n.toNat (a + 2)).length = n.toNat := s.length_scriptFrom n.toNat fits
  have h1 : n.toNat ≠ 0 := fun h => h0 (BitVec.eq_of_toNat_eq h)
  have hlt : n.toNat < 256 := n.isLt
  rw [← hlen, Nat.add_assoc] at fits passes
  exact .goesOn latch ⟨hph, by omega, by omega⟩ fits passes

/-- A check that rejects did not fail on the way to a pass. -/
theorem Verdict.of_check {c : Prop} [Decidable c] {e : ErrCode} {a pc : Nat} {v : Verdict}
    (h : (if c then .reject e a else v) = .ok pc) : ¬ c ∧ v = .ok pc := by
  split at h
  · cases h
  · exact ⟨‹_›, h⟩

/-- A pass begins with a round over the instruction that stands at the offset. -/
theorem State.validateFrom_ok {s : State} {ph : Phase} {fuel a pc : Nat} {latch : Bool}
    (h : validateFrom s.cfg s.mem ph fuel a latch = .ok pc) :
    a < 4096 ∧ ∃ rounds i, fuel = rounds + 1 ∧ s.holdsAt a i ∧ s.PassRound ph rounds a pc i := by
  cases fuel with
  | zero => cases h
  | succ rounds =>
    unfold validateFrom at h
    obtain ⟨ha, h⟩ := Verdict.of_check h
    have ha : a < 4096 := Nat.lt_of_not_le ha
    refine ⟨ha, rounds, ?_⟩
    split at h
    · cases h
    rename_i op hop
    have opcode {k : Nat} (hk : op.toNat = k) : scriptByte s.mem a = some (BitVec.ofNat 8 k) := by
      rw [hop, (BitVec.toNat_eq_nat.mp hk).2]
    split at h
    · rename_i hk
      cases h
      exact ⟨_, rfl, State.holdsAt_endPhase ha (opcode hk), .ends rfl⟩
    · rename_i hk
      obtain ⟨hfit, h⟩ := Verdict.of_check h
      have hfit : a + 4 ≤ 4096 := Nat.lt_of_not_le hfit
      split at h
      · cases h
      · obtain ⟨-, h⟩ := Verdict.of_check h
        exact ⟨_, rfl, State.holdsAt_regw hfit (opcode hk) ‹_›, .goesOn _ trivial hfit h⟩
    · rename_i hk
      obtain ⟨hph, h⟩ := Verdict.of_check h
      obtain ⟨-, h⟩ := Verdict.of_check h
      split at h
      · cases h
      · rename_i n hn
        obtain ⟨h0, h⟩ := Verdict.of_check h
        obtain ⟨hfit, h⟩ := Verdict.of_check h
        have hfit : a + 2 + n.toNat ≤ 4096 := by
          have : ¬ 4096 ≤ a + 1 + n.toNat := hfit
          omega
        exact ⟨_, rfl, State.holdsAt_pkt hfit (opcode hk) hn h0,
          State.PassRound.pkt (Decidable.of_not_not hph) h0 hfit h⟩
    · rename_i hk
      obtain ⟨hfit, h⟩ := Verdict.of_check h
      have hfit : a + 3 ≤ 4096 := Nat.lt_of_not_le hfit
      exact ⟨_, rfl, State.holdsAt_delayMs hfit (opcode hk), .goesOn _ trivial hfit h⟩
    · rename_i hk
      obtain ⟨hfit, h⟩ := Verdict.of_check h
      have hfit : a + 3 ≤ 4096 := Nat.lt_of_not_le hfit
      exact ⟨_, rfl, State.holdsAt_delayUs hfit (opcode hk), .goesOn _ trivial hfit h⟩
    · cases h

/-- A pass ends at the END of the listing, after instructions that may stand before it. -/
theorem State.listing_of_validateFrom {s : State} {ph : Phase} {fuel a pc : Nat} {latch : Bool}
    (h : validateFrom s.cfg s.mem ph fuel a latch = .ok pc) :
    ∃ body, s.listing fuel a = body ++ [.endPhase] ∧ (∀ i ∈ body, inBody ph i) ∧ pc = offsetAfter a body := by
  induction fuel generalizing a latch with
  | zero => cases h
  | succ fuel ih =>
    obtain ⟨-, rounds, i, hf, hold, hr⟩ := State.validateFrom_ok h
    cases hf
    cases hr with
    | ends hpc => exact ⟨[], State.listing_endPhase hold fuel, nofun, hpc⟩
    | goesOn latch' hi _ hpass =>
      obtain ⟨body, hl, hall, hpc⟩ := ih hpass
      refine ⟨i :: body, ?_, List.forall_mem_cons.mpr ⟨hi, hall⟩, by rw [hpc, offsetAfter_cons]⟩
      rw [State.listing_inBody hi hold, hl, List.cons_append]

/-- Wherever the listing of a passing phase holds an instruction, the fetch gives it. -/
theorem State.fetch_of_validateFrom {s : State} {ph : Phase} {fuel a pc : Nat} {latch : Bool}
    {before after : List Instr} {i : Instr} (h : validateFrom s.cfg s.mem ph fuel a latch = .ok pc)
    (hl : s.listing fuel a = before ++ i :: after) :
    State.fetchScript { s with sp := BitVec.ofNat 16 (offsetAfter a before) } ph = .ok i := by
  induction before generalizing fuel a latch with
  | nil =>
    obtain ⟨ha, rounds, j, rfl, hold, hr⟩ := State.validateFrom_ok h
    obtain rfl : j = i := by
      cases hr with
      | ends =>
        rw [State.listing_endPhase hold] at hl
        exact (List.cons.inj hl).1
      | goesOn _ hj =>
        rw [State.listing_inBody hj hold] at hl
        exact (List.cons.inj hl).1
    have hsp : (BitVec.ofNat 16 a).toNat = a := by
      rw [BitVec.toNat_ofNat]
      omega
    rw [show offsetAfter a [] = a from rfl]
    exact State.fetchScript_of_holdsAt (s := s) rfl rfl hsp hr.legal hold
  | cons j before ih =>
    obtain ⟨-, rounds, j', rfl, hold, hr⟩ := State.validateFrom_ok h
    cases hr with
    | ends =>
      rw [State.listing_endPhase hold] at hl
      simp at hl
    | goesOn latch' hj _ hpass =>
      rw [State.listing_inBody hj hold, List.cons_append] at hl
      obtain ⟨rfl, htail⟩ := List.cons.inj hl
      rw [offsetAfter_cons]
      exact ih hpass htail

theorem validateFrom_endPhase {p : Params} {m : Mem} {ph : Phase} {fuel pc : Nat} {latch : Bool} (hpc : pc < 4096)
    (h : scriptByte m pc = some 0x00) : validateFrom p m ph (fuel + 1) pc latch = .ok pc := by
  simp [validateFrom, h, show ¬ 4096 ≤ pc by omega]

/-- Settles O22: the listing of a phase that passes by the rounds of validation, and conversely the walk over the legal
instructions and one round more. -/
theorem validationPassesExactlyTheLegalPhases : Obligations.ValidationPassesExactlyTheLegalPhases := by
  refine ⟨fun s ph ptr pc h => ?passes, fun s ph ptr is pc hl hpc hlt hend => ?legal⟩
  case passes =>
    obtain ⟨body, hl, hbody, hpc⟩ := State.listing_of_validateFrom h
    refine ⟨⟨body, hl, fun hmem => inBody_ne_endPhase (hbody _ hmem) rfl, hpc⟩, fun i hi => ?_,
      fun before i after hsplit => State.fetch_of_validateFrom h hsplit⟩
    have hlegal : legalIn ph i := by
      rw [State.phaseListing, hl, List.mem_append, List.mem_singleton] at hi
      exact hi.symm.imp_right (hbody i)
    refine ⟨legalIn_wf hlegal, legalIn_ne_reservedScript hlegal, fun bs hbs => ?_⟩
    exact (legalIn_phase hlegal).resolve_right fun hn => hn bs hbs
  case legal =>
    obtain ⟨fuel, he⟩ := State.validate_legalUpTo hl
    rw [he, ← hpc, validateFrom_endPhase hlt hend]

end Sys2Proof.Machine

/-! ## Proofs: illegal instructions never execute (O59)

`State.fetchesPass` looks only at the statements that fetch or move pc, so a list of other statements can be put in
front of it or taken off. `Next.legal` is what the statement asks of what comes next; it is shown of every branch of
`State.controllerNext` and of `State.hostNext`. -/

namespace Sys2Proof.Machine

/-! ### Which fetches have passed -/

/-- A statement that neither fetches from the script nor moves pc. -/
def Op.leavesPc : Op → Bool
  | .advance _ | .script | .runPhase _ _ => false
  | .prim _ | .w9 _ | .frame _ _ | .read16 | .setPState _ | .returnRead _ => true

theorem Op.leavesPc_of_inScript {o : Op} (h : o.inScript = true) : o.leavesPc = true := by
  cases o with
  | advance | script | runPhase => cases h
  | _ => rfl

section Fetches

variable {s t : State} {ph : Option Phase} {a b : Half} {ops rest : List Op}

/-- What has passed depends on the parameters and on the written bytes alone. -/
theorem State.fetchesPass_congr (hcfg : t.cfg = s.cfg) (hm : t.mem = s.mem) :
    t.fetchesPass ph a ops ↔ s.fetchesPass ph a ops := by
  induction ops generalizing ph a with
  | nil => exact Iff.rfl
  | cons o ops ih => cases o <;> simp only [State.fetchesPass, State.phasePasses, hcfg, hm, ih]

/-- Outside a phase nothing is fetched at pc. -/
theorem State.fetchesPass_outside (h : s.fetchesPass none a ops) : s.fetchesPass none b ops := by
  induction ops generalizing a b with
  | nil => exact h
  | cons o ops ih =>
    cases o with
    | script => exact nomatch h.1
    | runPhase p ptr => exact ⟨h.1, ih h.2⟩
    | _ => exact ih h

theorem State.fetchesPass_cons {o : Op} (ho : o.leavesPc = true) :
    s.fetchesPass ph a (o :: rest) ↔ s.fetchesPass ph a rest := by
  cases o with
  | advance | script | runPhase => cases ho
  | _ => exact Iff.rfl

theorem State.fetchesPass_append (h : ops.all Op.leavesPc = true) :
    s.fetchesPass ph a (ops ++ rest) ↔ s.fetchesPass ph a rest := by
  induction ops with
  | nil => exact Iff.rfl
  | cons o ops ih =>
    rw [List.all_cons, Bool.and_eq_true] at h
    rw [List.cons_append, State.fetchesPass_cons h.1, ih h.2]

/-- A list that fetches nothing. -/
theorem State.fetchesPass_of_leavesPc (h : ops.all Op.leavesPc = true) : s.fetchesPass ph a ops := by
  rw [← List.append_nil ops, State.fetchesPass_append h]
  trivial

/-- The loop of RunPhase, in a phase that passes from pc on. -/
theorem State.fetchesPass_script {p : Phase} :
    s.fetchesPass (some p) a (.script :: rest) ↔ s.phasePasses p a ∧ s.fetchesPass none a rest := by
  simp [State.fetchesPass]

end Fetches

/-- The invariant holds of a state that keeps the parameters and the buffers, if what it has still to fetch passes. -/
theorem State.scriptInv_of_cont {s t : State} {c : Cont} (hcfg : t.cfg = s.cfg) (hm : t.mem = s.mem)
    (hc : t.cont = some c) (h : s.fetchesPass c.phase t.sp c.ops) : t.scriptInv := by
  intro c' hc'
  obtain rfl : c = c' := Option.some.inj (hc.symm.trans hc')
  exact (State.fetchesPass_congr hcfg hm).mpr h

theorem State.scriptInv_of_idle {t : State} (hc : t.cont = none) : t.scriptInv := fun _ h => nomatch hc.symm.trans h

/-- A step that leaves the controller, pc, the parameters and the buffers alone keeps the invariant. -/
theorem State.scriptInv_congr {s t : State} (hs : s.scriptInv) (hcont : t.cont = s.cont) (hsp : t.sp = s.sp)
    (hcfg : t.cfg = s.cfg) (hm : t.mem = s.mem) : t.scriptInv := fun c hc =>
  (State.fetchesPass_congr hcfg hm).mpr (hsp ▸ hs c (hcont ▸ hc))

/-! ### What comes next -/

/-- What comes next runs no reserved opcode, stops, if at all, at an unwritten byte, and keeps the invariant. -/
structure Next.legal (n : Next) : Prop where
  keeps : ∀ t, n.outcome = .next t → t.scriptInv
  stops : ∀ f, n.outcome = .fault f → ∃ off, f = .unwrittenBuffer off
  runs : ∀ op t, n ≠ .run (.reservedScript op) t

theorem Next.legal_goto {t : State} (h : t.scriptInv) : (Next.goto t).legal :=
  ⟨fun _ hu => Host.Outcome.next.inj hu ▸ h, fun _ hf => (nomatch hf), fun _ _ hr => (nomatch hr)⟩

theorem Next.legal_bar (r : Refusal) : (Next.bar r).legal :=
  ⟨fun _ hu => (nomatch hu), fun _ hf => (nomatch hf), fun _ _ hr => (nomatch hr)⟩

/-- An instruction that runs to a state with the invariant. -/
theorem Next.legal_run {i : Instr} {s t : State} (hi : ∀ op, i ≠ .reservedScript op) (he : exec i s = .next t)
    (ht : t.scriptInv) : (Next.run i s).legal := by
  refine ⟨fun u hu => ?_, fun f hf => ?_, fun op u h => ?_⟩
  · cases he.symm.trans hu
    exact ht
  · cases he.symm.trans hf
  · cases h
    exact hi op rfl

/-! ### The controller -/

/-- A collaborator call keeps the invariant if the command's next continuation does. -/
theorem State.call_scriptInv {s : State} {c : Cont} (p : Prim) (h : s.fetchesPass c.phase s.sp c.ops) :
    (s.call p fun t => { t with cont := some c }).scriptInv := by
  obtain ⟨-, he⟩ | ⟨-, -, he⟩ | ⟨f, -, -, he⟩ := s.call_cases p fun t => { t with cont := some c } <;> rw [he]
  · exact State.scriptInv_of_cont (s := s) (by simp) (by simp) rfl (by simpa using h)
  · exact State.scriptInv_of_cont (s := s) (by simp) (by simp) rfl (by simpa using h)
  · exact State.scriptInv_of_idle rfl

/-- A transfer's call leaves the phase, and no fetch is before the statements it leaves. -/
theorem Cont.fetchesPass_afterCall {s : State} {c : Cont} (x : Xfer) (b : Bool) (h : s.fetchesPass c.phase s.sp c.ops) :
    s.fetchesPass (c.afterCall x b).phase s.sp (c.afterCall x b).ops := by
  unfold Cont.afterCall Xfer.opsAfter
  split
  · exact h
  · split
    · exact h
    · exact (State.fetchesPass_cons rfl).mpr h

/-- An instruction in the body of a phase puts its statements, and the advance by its length, before the loop. -/
theorem exec_inBody {ph : Phase} {i : Instr} (h : inBody ph i) (s : State) :
    ∃ stmts, stmts.all Op.inScript = true ∧ exec i s = s.expand stmts (scriptLengthOf i) := by
  cases i with
  | regw id value => exact ⟨_, writeRegister_inScript id value, rfl⟩
  | pkt payload => exact ⟨_, sendCommandPacket_inScript s.cfg payload, rfl⟩
  | delayMs count => exact ⟨_, delayOps_inScript count .ms, rfl⟩
  | delayUs count => exact ⟨_, delayOps_inScript count .us, rfl⟩
  | _ => exact h.elim

theorem exec_endPhase (s : State) :
    exec .endPhase s = s.inCommand fun c => { s with cont := some { c with phase := none } } := rfl

theorem State.scriptNext_fetched {s : State} {c : Cont} {ph : Phase} {i : Instr} (rest : List Op)
    (hp : c.phase = some ph) (hf : s.fetchScript ph = .ok i) :
    s.scriptNext c rest = .run i { s with cont := some { c with ops := rest } } := by
  simp [State.scriptNext, hp, hf]

/-- The fetch from a phase that passes runs a legal instruction: END leaves the phase, and after any other the phase
passes from the next instruction on. -/
theorem State.scriptNext_legal {s : State} {c : Cont} {rest : List Op} (hx : c.xfer = none)
    (h : s.fetchesPass c.phase s.sp (.script :: rest)) : (s.scriptNext c rest).legal := by
  obtain ⟨⟨ph, hph, fuel, latch, pc, hpass⟩, hrest⟩ := h
  obtain ⟨ha, rounds, i, -, hold, hr⟩ := State.validateFrom_ok hpass
  have hfetch : s.fetchScript ph = .ok i := State.fetchScript_of_holdsAt rfl rfl rfl hr.legal hold
  rw [State.scriptNext_fetched rest hph hfetch]
  cases hr with
  | ends =>
    exact Next.legal_run nofun ((exec_endPhase _).trans (State.inCommand_eq _ rfl hx))
      (State.scriptInv_of_cont (s := s) rfl rfl rfl hrest)
  | goesOn latch' hi hfit hpass' =>
    obtain ⟨stmts, hstmts, he⟩ := exec_inBody hi { s with cont := some { c with ops := rest } }
    have hleaves : stmts.all Op.leavesPc = true :=
      List.all_eq_true.mpr fun o ho => Op.leavesPc_of_inScript (List.all_eq_true.mp hstmts o ho)
    have hsp : (s.sp + BitVec.ofNat 16 (scriptLengthOf i)).toNat = s.sp.toNat + scriptLengthOf i := by
      rw [BitVec.toNat_add, BitVec.toNat_ofNat]
      omega
    refine Next.legal_run (legalIn_ne_reservedScript (.inr hi)) (he.trans (State.inCommand_eq _ rfl hx))
      (State.scriptInv_of_cont (s := s) rfl rfl rfl ?_)
    change s.fetchesPass c.phase s.sp (stmts ++ .advance (scriptLengthOf i) :: .script :: rest)
    rw [State.fetchesPass_append hleaves, hph]
    refine State.fetchesPass_script.mpr ⟨⟨rounds, latch', pc, ?_⟩, State.fetchesPass_outside hrest⟩
    rw [hsp]
    exact hpass'

/-- The next statement of a command between transfers. -/
theorem State.statementNext_legal {s : State} {c : Cont} (hx : c.xfer = none) (h : s.fetchesPass c.phase s.sp c.ops) :
    (s.statementNext c).legal := by
  unfold State.statementNext
  split <;> rename_i ho <;> rw [ho] at h
  · exact Next.legal_goto (State.scriptInv_of_idle rfl)
  · exact Next.legal_goto (State.call_scriptInv _ h)
  · exact Next.legal_goto (State.scriptInv_of_cont (s := s) rfl rfl rfl h)
  · rename_i r b rest
    have hr (op : Byte) : r.instr b ≠ .reservedScript op := by cases r <;> nofun
    exact Next.legal_run hr ((exec_roleInstr r b _).trans (State.inCommand_eq _ rfl hx))
      (State.scriptInv_of_cont (s := s) rfl rfl rfl h)
  · exact Next.legal_run nofun ((exec_read16 _).trans (State.inCommand_eq _ rfl hx))
      (State.scriptInv_of_cont (s := s) rfl rfl rfl h)
  · obtain ⟨hpass, hrest⟩ := h
    exact Next.legal_goto (State.scriptInv_of_cont (s := s) rfl rfl rfl
      (State.fetchesPass_script.mpr ⟨hpass, State.fetchesPass_outside hrest⟩))
  · exact State.scriptNext_legal hx h
  · exact Next.legal_goto (State.scriptInv_of_cont (s := s) rfl rfl rfl h)
  · exact Next.legal_goto (State.scriptInv_of_cont (s := s) rfl rfl rfl h)
  · exact Next.legal_goto (State.scriptInv_of_idle rfl)

theorem State.controllerNext_legal {s : State} (hs : s.scriptInv) : s.controllerNext.legal := by
  unfold State.controllerNext
  split
  · exact Next.legal_goto hs
  · rename_i c hc
    split
    · rename_i x hx
      exact Next.legal_goto (State.call_scriptInv _ (Cont.fetchesPass_afterCall x _ (hs c hc)))
    · exact State.statementNext_legal ‹_› (hs c hc)

/-! ### Host commands -/

theorem State.validateAll_ok {s : State} {pc : Nat} (h : s.validateAll = .ok pc) :
    s.phasePasses .one s.ph1 ∧ s.phasePasses .two s.ph2 ∧ s.phasePasses .three s.ph3 := by
  unfold State.validateAll at h
  split at h
  · rename_i h1
    split at h
    · rename_i h2
      exact ⟨⟨_, _, _, h1⟩, ⟨_, _, _, h2⟩, ⟨_, _, _, h⟩⟩
    · cases h
    · cases h
  · cases h
  · cases h

theorem all_leavesPc_prims {α : Type} (f : α → Prim) (xs : List α) :
    (xs.map fun x => Op.prim (f x)).all Op.leavesPc = true := by
  simp [Op.leavesPc]

theorem DelayReg.all_leavesPc_ops (r : DelayReg) : r.ops.all Op.leavesPc = true :=
  List.all_eq_true.mpr fun o ho => Op.leavesPc_of_inScript (List.all_eq_true.mp (delayOps_inScript _ _) o ho)

/-- The body of POWER_ON fetches in its three phases alone. -/
theorem State.fetchesPass_powerOnBody {s : State} {a : Half} (h1 : s.phasePasses .one s.ph1)
    (h2 : s.phasePasses .two s.ph2) (h3 : s.phasePasses .three s.ph3) : s.fetchesPass none a (powerOnBody s) := by
  simp only [powerOnBody, State.fetchesPass, State.fetchesPass_append (DelayReg.all_leavesPc_ops _),
    State.fetchesPass_append (all_leavesPc_prims _ _), h1, h2, h3, and_self]

/-- An accepted body fetches from phases that have passed, or fetches nothing. -/
theorem State.acceptable_fetchesPass {s : State} {cmd : Command} {body : List Op} {a : Half}
    (h : s.acceptable cmd body) : s.fetchesPass none a body := by
  cases cmd with
  | attach =>
    obtain ⟨-, -, rfl⟩ := h
    refine State.fetchesPass_of_leavesPc ?_
    simp [attachBody, Op.leavesPc]
  | detach =>
    obtain ⟨-, rfl⟩ := h
    exact State.fetchesPass_of_leavesPc (all_leavesPc_prims _ _)
  | xferW9 | xferR16 | regWrite | regRead =>
    obtain ⟨-, rfl⟩ := h
    exact State.fetchesPass_of_leavesPc rfl
  | pktSend =>
    obtain ⟨-, bytes, rfl⟩ := h
    refine State.fetchesPass_of_leavesPc ?_
    simp [sendCommandPacket, writeRegister, Op.leavesPc]
  | powerOn =>
    obtain ⟨-, ⟨pc, hv⟩, rfl⟩ := h
    obtain ⟨h1, h2, h3⟩ := State.validateAll_ok hv
    exact State.fetchesPass_powerOnBody h1 h2 h3

theorem State.commandResult_scriptInv {s t : State} (hs : s.scriptInv) (h : s.commandResult t) : t.scriptInv := by
  obtain ⟨-, rfl⟩ | ⟨hc, e, sp, rfl⟩ | ⟨-, cmd, body, sp, ha, rfl⟩ := h
  · exact State.scriptInv_congr hs rfl rfl rfl rfl
  · exact State.scriptInv_of_idle hc
  · exact State.scriptInv_of_cont (s := s) rfl rfl rfl (State.acceptable_fetchesPass ha)

/-- A command faults where its body does. -/
theorem State.command_fault {s : State} {stateOk paramOk : Bool} {body : Host.Outcome State Fault Refusal} {f : Fault}
    (h : s.command stateOk paramOk body = .fault f) : body = .fault f := by
  obtain ⟨-, he⟩ | ⟨-, -, he⟩ | ⟨-, -, -, he⟩ | ⟨-, -, -, he⟩ := s.command_cases stateOk paramOk body <;>
    rw [he] at h
  · cases h
  · cases h
  · cases h
  · exact h

/-- A host command faults at an unwritten byte alone: PKT_SEND at one of its packet, POWER_ON in validation (R49). -/
theorem exec_decodeHost_fault {s : State} {d : Word} {f : Fault} (h : exec (decodeHost d) s = .fault f) :
    ∃ off, f = .unwrittenBuffer off := by
  unfold decodeHost at h
  split at h
  case h_7 =>
    have hbody := State.command_fault h
    split at hbody <;> cases hbody
    exact ⟨_, rfl⟩
  case h_8 =>
    have hbody := State.command_fault h
    unfold State.afterValidation at hbody
    split at hbody <;> cases hbody
    exact ⟨_, rfl⟩
  case h_9 =>
    change execReservedHost (opcOf d) s = _ at h
    unfold execReservedHost at h
    split at h <;> cases h
  all_goals exact nomatch State.command_fault h

theorem decodeHost_ne_reservedScript (d : Word) (op : Byte) : decodeHost d ≠ .reservedScript op := by
  unfold decodeHost
  split <;> nofun

/-- A host write while busy keeps the controller and the buffers, and while idle no command is in progress. -/
theorem State.hostWrite_scriptInv {s : State} (hs : s.scriptInv) (off : Offset) (d : Word) :
    (s.hostWrite off d).scriptInv := by
  cases hb : s.busy with
  | true =>
    rw [s.hostWrite_busy off d hb]
    exact State.scriptInv_congr hs rfl rfl rfl rfl
  | false =>
    obtain ⟨-, hcont, -⟩ := s.hostWrite_controller off d
    exact State.scriptInv_of_idle (hcont.trans (State.busy_false hb))

theorem State.hostNext_legal {s : State} (hs : s.scriptInv) (act : HostAct) (rest : List HostSlot) :
    (s.hostNext act rest).legal := by
  have hrest : { s with host := rest }.scriptInv := State.scriptInv_congr hs rfl rfl rfl rfl
  unfold State.hostNext
  split
  · rename_i off d
    split
    · split
      · refine ⟨fun t ht => ?_, fun f hf => exec_decodeHost_fault hf, fun op t h => ?_⟩
        · exact State.commandResult_scriptInv hrest (exec_decodeHost_result ht)
        · injection h with hi
          exact decodeHost_ne_reservedScript d op hi
      · exact Next.legal_goto (State.hostWrite_scriptInv hrest off d)
    · exact Next.legal_bar _
  · split
    · exact Next.legal_goto (State.scriptInv_congr hs rfl rfl rfl rfl)
    · exact Next.legal_bar _
  · exact Next.legal_bar _
  · split
    · exact State.controllerNext_legal hs
    · exact Next.legal_goto (State.scriptInv_congr hs rfl rfl rfl rfl)
  · exact Next.legal_goto (State.scriptInv_of_idle rfl)

theorem State.next_legal {s : State} (hs : s.scriptInv) : s.next.legal := by
  unfold State.next
  split
  · exact State.controllerNext_legal hs
  · exact State.hostNext_legal hs _ _
  · exact State.controllerNext_legal (State.scriptInv_congr hs rfl rfl rfl rfl)

/-- Settles O59: what comes next is legal, and a step is its outcome. -/
theorem illegalInstructionsNeverExecute : Obligations.IllegalInstructionsNeverExecute := by
  intro s hs
  obtain ⟨keeps, stops, runs⟩ := State.next_legal hs
  exact ⟨keeps, stops, runs⟩

end Sys2Proof.Machine

/-! ## Proofs: select and clock (O58)

`State.busInv` says one thing of an idle block, one of ATTACH, one of DETACH, and two of a command that makes transfers:
between them and inside one. Each gets its own equation, and a step is shown to lead from one of them to another. -/

namespace Sys2Proof.Machine

/-! ### The five cases of the invariant -/

/-- Select and clock at their idle levels (R145). -/
def Levels.busIdle (v : Levels) : Prop := v.cs = .one ∧ v.sck = .one

/-- A command that can make transfers: any but ATTACH and DETACH (R233 to R240). -/
def Command.makesTransfers (cmd : Command) : Prop := cmd ≠ .attach ∧ cmd ≠ .detach

section Cases

variable {s t : State} {c : Cont}

theorem State.busInv_idle (hc : s.cont = none) :
    s.busInv ↔ (s.status.lc = .attached → s.status.lineFault = false → s.lvl.busIdle) := by
  unfold State.busInv
  rw [hc]
  exact Iff.rfl

theorem State.busInv_attach (hc : s.cont = some c) (hcmd : c.cmd = .attach) :
    s.busInv ↔ c.xfer = none ∧ c.ops.all Op.inAttach = true ∧ (s.lvl.afterOps c.ops).busIdle := by
  unfold State.busInv
  simp only [hc, hcmd]
  exact Iff.rfl

theorem State.busInv_detach (hc : s.cont = some c) (hcmd : c.cmd = .detach) :
    s.busInv ↔ c.xfer = none ∧ c.ops.all Op.inDetach = true := by
  unfold State.busInv
  simp only [hc, hcmd]

theorem State.busInv_between (hc : s.cont = some c) (hcmd : c.cmd.makesTransfers) (hx : c.xfer = none) :
    s.busInv ↔ c.ops.all Op.inTransfer = true ∧ s.lvl.busIdle := by
  unfold State.busInv
  obtain ⟨ha, hd⟩ := hcmd
  cases h : c.cmd with
  | attach => exact absurd h ha
  | detach => exact absurd h hd
  | _ => simp only [hc, h, hx]; exact Iff.rfl

theorem State.busInv_inside {x : Xfer} (hc : s.cont = some c) (hcmd : c.cmd.makesTransfers) (hx : c.xfer = some x) :
    s.busInv ↔ c.ops.all Op.inTransfer = true ∧ x.linesOk s.lvl := by
  unfold State.busInv
  obtain ⟨ha, hd⟩ := hcmd
  cases h : c.cmd with
  | attach => exact absurd h ha
  | detach => exact absurd h hd
  | _ => simp only [hc, h, hx]

theorem State.busInv_of_between (hc : s.cont = some c) (hcmd : c.cmd.makesTransfers) (hx : c.xfer = none)
    (hops : c.ops.all Op.inTransfer = true) (hidle : s.lvl.busIdle) : s.busInv :=
  (State.busInv_between hc hcmd hx).mpr ⟨hops, hidle⟩

theorem State.busInv_of_inside {x : Xfer} (hc : s.cont = some c) (hcmd : c.cmd.makesTransfers) (hx : c.xfer = some x)
    (hops : c.ops.all Op.inTransfer = true) (hlines : x.linesOk s.lvl) : s.busInv :=
  (State.busInv_inside hc hcmd hx).mpr ⟨hops, hlines⟩

/-- The invariant looks only at the continuation, the levels, LC and LINE_FAULT. -/
theorem State.busInv_congr (hcont : t.cont = s.cont) (hlvl : t.lvl = s.lvl) (hlc : t.status.lc = s.status.lc)
    (hlf : t.status.lineFault = s.status.lineFault) (hs : s.busInv) : t.busInv := by
  unfold State.busInv at hs ⊢
  rwa [hcont, hlvl, hlc, hlf]

end Cases

/-! ### Collaborator calls (R13, R274) -/

/-- The levels after a success do not depend on the count of calls. -/
theorem State.countCall_succeed_lvl (s : State) (p : Prim) : (s.countCall.succeed p).lvl = (s.succeed p).lvl := by
  cases p <;> rfl

/-- A call that fails raises a line error or leaves the levels (R13). -/
theorem Prim.failure_line_or_keeps {p : Prim} {f : FailKind × Handle × ErrCode} (h : p.failure = some f) :
    f.2.2 = .line ∨ ∀ v, p.failedLevels v = v := by
  cases p <;> cases h
  case setLine | getSdo => exact .inl rfl
  all_goals exact .inr fun _ => rfl

/-- A call keeps the invariant if its success does, and its failure is a line error, ends ATTACH, or finds the lines
idle. -/
theorem State.call_busInv {s : State} {c c' : Cont} {p : Prim} (hc : s.cont = some c)
    (succeeds : { s.succeed p with cont := some c' }.busInv)
    (fails : ∀ f, p.failure = some f → f.2.2 = .line ∨ c.cmd = .attach ∨ s.lvl.busIdle) :
    (s.call p fun u => { u with cont := some c' }).busInv := by
  obtain ⟨-, he⟩ | ⟨-, -, he⟩ | ⟨f, hf, -, he⟩ := s.call_cases p fun u => { u with cont := some c' } <;> rw [he]
  · exact succeeds
  · exact State.busInv_congr (s := { s.succeed p with cont := some c' }) rfl (s.countCall_succeed_lvl p) (by simp)
      (by simp) succeeds
  · rw [State.busInv_idle rfl]
    intro hlc hlf
    change (p.failedLevels s.lvl).busIdle
    have hline : f.2.2 ≠ .line := fun h => by simp [State.failCall_eq, Status.raised, h] at hlf
    have hcmd : c.cmd ≠ .attach := fun h => by simp [State.failCall_eq, Status.raised, hc, h] at hlc
    obtain h | h | hidle := fails f hf
    · exact absurd h hline
    · exact absurd h hcmd
    · obtain h | keeps := Prim.failure_line_or_keeps hf
      · exact absurd h hline
      · rwa [keeps]

/-! ### Transfers (R140, R141) -/

/-- A transfer's calls are SetLine, GetLine and Wait, so what fails is a line. -/
theorem Xfer.failure_line {p : Params} {x : Xfer} {f : FailKind × Handle × ErrCode} (h : (x.prim p).failure = some f) :
    f.2.2 = .line := by
  obtain ⟨dir, bit, pos⟩ := x
  cases pos
  case data => cases dir <;> cases h <;> rfl
  all_goals cases h
  all_goals rfl

/-- A call of a transfer drives select and clock to where its next position has them, and its last call to idle. -/
theorem Xfer.linesOk_after {x : Xfer} {s : State} (p : Params) (b : Bool) (h : x.linesOk s.lvl) :
    (x.after b).elim Levels.busIdle Xfer.linesOk (s.succeed (x.prim p)).lvl := by
  obtain ⟨dir, bit, pos⟩ := x
  cases pos with
  | select => exact ⟨rfl, h.2⟩
  | selectWait | frameWait => exact h
  | clockLow => cases dir <;> exact ⟨h.1, rfl⟩
  | data | lowHold => cases dir <;> exact h
  | clockHigh => exact ⟨h.1, rfl⟩
  | highHold => cases bit <;> exact h
  | deselect => exact ⟨rfl, h.2⟩

theorem Xfer.opsAfter_inTransfer {ops : List Op} (x : Xfer) (h : ops.all Op.inTransfer = true) :
    (x.opsAfter ops).all Op.inTransfer = true := by
  unfold Xfer.opsAfter
  split <;> exact h

/-- The continuation after a transfer's call, its last or another. -/
theorem Cont.afterCall_cases (c : Cont) (x : Xfer) (b : Bool) :
    (∃ x', x.after b = some x' ∧ c.afterCall x b = { c with xfer := some x' }) ∨
      (x.after b = none ∧ c.afterCall x b = { c with xfer := none, ops := x.opsAfter c.ops }) := by
  unfold Cont.afterCall
  split
  · exact .inl ⟨_, ‹_›, rfl⟩
  · exact .inr ⟨‹_›, rfl⟩

theorem State.transferStep_busInv {s : State} {c : Cont} {x : Xfer} (hs : s.busInv) (hc : s.cont = some c)
    (hcmd : c.cmd.makesTransfers) (hx : c.xfer = some x) : (s.transferStep c x).busInv := by
  obtain ⟨hops, hlines⟩ := (State.busInv_inside hc hcmd hx).mp hs
  have hafter := Xfer.linesOk_after s.cfg s.env.level hlines
  refine State.call_busInv hc ?_ fun f hf => .inl (Xfer.failure_line hf)
  obtain ⟨x', ha, he⟩ | ⟨ha, he⟩ := c.afterCall_cases x s.env.level <;> rw [ha] at hafter <;> rw [he]
  · exact State.busInv_of_inside rfl hcmd rfl hops hafter
  · exact State.busInv_of_between rfl hcmd rfl (x.opsAfter_inTransfer hops) hafter

/-! ### The statements of ATTACH and DETACH (R233, R234) -/

/-- A body of collaborator calls alone: it completes, or makes its next call. -/
theorem State.controller_prims {s t : State} {c : Cont} (hc : s.cont = some c) (hx : c.xfer = none)
    (ho : ∀ o ∈ c.ops, ∃ p, o = .prim p) (h : s.controllerNext.outcome = .next t) :
    (c.ops = [] ∧ t = s.complete c.cmd) ∨
      ∃ p rest, c.ops = .prim p :: rest ∧ t = s.call p fun u => { u with cont := some { c with ops := rest } } := by
  rw [State.controllerNext_statement hc hx] at h
  unfold State.statementNext at h
  cases hops : c.ops with
  | nil =>
    rw [hops] at h
    cases h
    exact .inl ⟨rfl, rfl⟩
  | cons o rest =>
    obtain ⟨p, rfl⟩ := ho o (by simp [hops])
    rw [hops] at h
    cases h
    exact .inr ⟨p, rest, rfl, rfl⟩

theorem Op.inAttach_iff (o : Op) :
    o.inAttach = true ↔ (∃ h, o = .prim (.acquire h)) ∨ ∃ l v, o = .prim (.setLine l v) := by
  cases o with
  | prim p => cases p <;> simp [Op.inAttach]
  | _ => simp [Op.inAttach]

theorem Op.inDetach_iff (o : Op) : o.inDetach = true ↔ ∃ h, o = .prim (.release h) := by
  cases o with
  | prim p => cases p <;> simp [Op.inDetach]
  | _ => simp [Op.inDetach]

/-- ATTACH leads to idle lines: each call that succeeds does its part, and the end finds them idle. -/
theorem State.controller_busInv_attach {s t : State} {c : Cont} (hs : s.busInv) (hc : s.cont = some c)
    (hcmd : c.cmd = .attach) (h : s.controllerNext.outcome = .next t) : t.busInv := by
  obtain ⟨hx, hops, hidle⟩ := (State.busInv_attach hc hcmd).mp hs
  have hprims : ∀ o ∈ c.ops, ∃ p, o = .prim p := fun o ho => by
    obtain ⟨h, rfl⟩ | ⟨l, v, rfl⟩ := o.inAttach_iff.mp (List.all_eq_true.mp hops o ho) <;> exact ⟨_, rfl⟩
  obtain ⟨he, rfl⟩ | ⟨p, rest, he, rfl⟩ := State.controller_prims hc hx hprims h <;> rw [he] at hops hidle
  · exact (State.busInv_idle rfl).mpr fun _ _ => hidle
  · rw [List.all_cons, Bool.and_eq_true, Op.inAttach_iff] at hops
    obtain ⟨hp, hrest⟩ := hops
    refine State.call_busInv hc ?_ fun f _ => .inr (.inl hcmd)
    refine (State.busInv_attach (c := { c with ops := rest }) rfl hcmd).mpr ⟨hx, hrest, ?_⟩
    obtain ⟨h, ⟨⟩⟩ | ⟨l, v, ⟨⟩⟩ := hp <;> exact hidle

/-- DETACH only releases handles, and leaves the block Released. -/
theorem State.controller_busInv_detach {s t : State} {c : Cont} (hs : s.busInv) (hc : s.cont = some c)
    (hcmd : c.cmd = .detach) (h : s.controllerNext.outcome = .next t) : t.busInv := by
  obtain ⟨hx, hops⟩ := (State.busInv_detach hc hcmd).mp hs
  have hprims : ∀ o ∈ c.ops, ∃ p, o = .prim p := fun o ho => by
    obtain ⟨h, rfl⟩ := o.inDetach_iff.mp (List.all_eq_true.mp hops o ho)
    exact ⟨_, rfl⟩
  obtain ⟨he, rfl⟩ | ⟨p, rest, he, rfl⟩ := State.controller_prims hc hx hprims h
  · refine (State.busInv_idle rfl).mpr fun hlc => ?_
    rw [hcmd] at hlc
    cases hlc
  · rw [he, List.all_cons, Bool.and_eq_true, Op.inDetach_iff] at hops
    obtain ⟨⟨h, ⟨⟩⟩, hrest⟩ := hops
    exact State.call_busInv hc ((State.busInv_detach (c := { c with ops := rest }) rfl hcmd).mpr ⟨hx, hrest⟩) nofun

/-! ### The statements of the other commands (R207 to R212, R235 to R239) -/

/-- Outside its transfers a command's calls leave select and clock alone. -/
theorem Op.inTransfer_prim {p : Prim} (h : Op.inTransfer (.prim p) = true) (s : State) :
    (s.succeed p).lvl.cs = s.lvl.cs ∧ (s.succeed p).lvl.sck = s.lvl.sck := by
  cases p with
  | setLine l v =>
    cases l with
    | en | rst => exact ⟨rfl, rfl⟩
    | cs | sck | sdi => cases h
  | acquire | release | getSdo => cases h
  | _ => exact ⟨rfl, rfl⟩

theorem Op.inTransfer_of_inScript {o : Op} (h : o.inScript = true) : o.inTransfer = true := by
  cases o with
  | frame r b => rfl
  | prim p =>
    cases p with
    | wait n u => rfl
    | _ => cases h
  | _ => cases h

theorem all_inTransfer_of_inScript {ops : List Op} (h : ops.all Op.inScript = true) :
    ops.all Op.inTransfer = true :=
  List.all_eq_true.mpr fun o ho => Op.inTransfer_of_inScript (List.all_eq_true.mp h o ho)

/-- A script instruction leaves the lines idle, and leaves the command statements that drive no bus line. -/
theorem exec_fetched_busInv {u s t : State} {c : Cont} {ph : Phase} {i : Instr} (hc : s.cont = some c)
    (hcmd : c.cmd.makesTransfers) (hops : c.ops.all Op.inTransfer = true) (hidle : s.lvl.busIdle)
    (hf : u.fetchScript ph = .ok i) (h : exec i s = .next t) : t.busInv := by
  obtain rfl | ⟨c', hc', hx, hr⟩ := exec_fetched_result hf h
  · exact (State.busInv_idle rfl).mpr fun _ _ => hidle
  · cases hc.symm.trans hc'
    obtain rfl | ⟨stmts, n, hi, rfl⟩ := hr
    · exact State.busInv_of_between rfl hcmd hx hops hidle
    · refine State.busInv_of_between rfl hcmd hx ?_ hidle
      simp [all_inTransfer_of_inScript hi, hops, Op.inTransfer]

/-- A command that makes transfers keeps the lines idle between them and starts each from idle lines (R145, R147). -/
theorem State.controller_busInv_makesTransfers {s t : State} {c : Cont} (hs : s.busInv) (hc : s.cont = some c)
    (hcmd : c.cmd.makesTransfers) (h : s.controllerNext.outcome = .next t) : t.busInv := by
  obtain ⟨hn, -⟩ | ⟨c', hc', hr⟩ := State.controller_cases h
  · cases hc.symm.trans hn
  cases hc.symm.trans hc'
  obtain ⟨x, hx, rfl⟩ | ⟨hx, hr⟩ := hr
  · exact State.transferStep_busInv hs hc hcmd hx
  obtain ⟨hops, hidle⟩ := (State.busInv_between hc hcmd hx).mp hs
  obtain ⟨-, rfl⟩ | ⟨rest, hr⟩ := hr
  · exact (State.busInv_idle rfl).mpr fun _ _ => hidle
  have hrest {o : Op} (ho : c.ops = o :: rest) : o.inTransfer = true ∧ rest.all Op.inTransfer = true := by
    rwa [ho, List.all_cons, Bool.and_eq_true] at hops
  obtain ⟨p, ho, rfl⟩ | ⟨w, ho, rfl⟩ | ⟨r, b, ho, rfl⟩ | ⟨ho, rfl⟩ | ⟨ph, ptr, ho, rfl⟩ | ⟨i, ph, ho, -, hf, he⟩ |
    ⟨n, ho, rfl⟩ | ⟨p, ho, rfl⟩ | ⟨raw, -, rfl⟩ := hr
  · obtain ⟨hp, hrest⟩ := hrest ho
    obtain ⟨hcs, hsck⟩ := Op.inTransfer_prim hp s
    refine State.call_busInv hc (State.busInv_of_between rfl hcmd hx hrest ?_) fun _ _ => .inr (.inr hidle)
    exact ⟨hcs.trans hidle.1, hsck.trans hidle.2⟩
  · exact State.busInv_of_inside rfl hcmd rfl (hrest ho).2 hidle
  · exact State.busInv_of_inside rfl hcmd rfl (hrest ho).2 hidle
  · exact State.busInv_of_inside rfl hcmd rfl (hrest ho).2 hidle
  · exact State.busInv_of_between rfl hcmd hx (hrest ho).2 hidle
  · exact exec_fetched_busInv (s := { s with cont := some { c with ops := rest } }) rfl hcmd (hrest ho).2 hidle hf he
  · exact State.busInv_of_between rfl hcmd hx (hrest ho).2 hidle
  · exact State.busInv_of_between rfl hcmd hx (hrest ho).2 hidle
  · exact (State.busInv_idle rfl).mpr fun _ _ => hidle

theorem State.controller_busInv {s t : State} (hs : s.busInv) (h : s.controllerNext.outcome = .next t) : t.busInv := by
  cases hc : s.cont with
  | none =>
    rw [State.controllerNext, hc] at h
    cases h
    exact hs
  | some c =>
    by_cases ha : c.cmd = .attach
    · exact State.controller_busInv_attach hs hc ha h
    · by_cases hd : c.cmd = .detach
      · exact State.controller_busInv_detach hs hc hd h
      · exact State.controller_busInv_makesTransfers hs hc ⟨ha, hd⟩ h

/-! ### Accepted commands (R230, R233 to R240) -/

theorem Levels.afterOps_acquires (v : Levels) (hs : List Handle) (ops : List Op) :
    v.afterOps (hs.map (fun h => Op.prim (.acquire h)) ++ ops) = v.afterOps ops := by
  induction hs with
  | nil => rfl
  | cons h hs ih => exact ih

/-- ATTACH's body acquires and then drives the bus lines idle (R233). -/
theorem attachBody_busIdle (n : BitVec 3) (v : Levels) :
    (attachBody n).all Op.inAttach = true ∧ (v.afterOps (attachBody n)).busIdle := by
  refine ⟨by simp [attachBody, Op.inAttach], ?_⟩
  have hrails : (railsOf n).map (fun k => Op.prim (.acquire (.rail k))) =
      ((railsOf n).map .rail).map fun h => Op.prim (.acquire h) := by simp
  rw [attachBody, hrails, List.append_assoc, Levels.afterOps_acquires, Levels.afterOps_acquires]
  exact ⟨rfl, rfl⟩

theorem powerOnBody_inTransfer (s : State) : (powerOnBody s).all Op.inTransfer = true := by
  have hdelay (r : DelayReg) : r.ops.all Op.inTransfer = true := all_inTransfer_of_inScript (delayOps_inScript _ _)
  simp [powerOnBody, Op.inTransfer, hdelay]

/-- A command is accepted with a body that meets the invariant: a transfer command finds the lines idle. -/
theorem State.accept_busInv {s u : State} {cmd : Command} {body : List Op} (hs : s.busInv) (hc : s.cont = none)
    (ha : u.acceptable cmd body) (hst : u.status = s.status) (hlvl : u.lvl = s.lvl) : (u.accept cmd body).busInv := by
  have idle : u.transferAllowed = true → (u.accept cmd body).lvl.busIdle := fun h => by
    simp only [State.transferAllowed, Bool.and_eq_true, beq_iff_eq, Bool.not_eq_true', hst] at h
    exact hlvl ▸ (State.busInv_idle hc).mp hs h.1 h.2
  cases cmd with
  | attach =>
    obtain ⟨-, -, rfl⟩ := ha
    exact (State.busInv_attach rfl rfl).mpr ⟨rfl, attachBody_busIdle _ _⟩
  | detach =>
    obtain ⟨-, rfl⟩ := ha
    exact (State.busInv_detach rfl rfl).mpr ⟨rfl, by simp [detachBody, Op.inDetach]⟩
  | xferW9 | xferR16 | regWrite | regRead =>
    obtain ⟨ht, rfl⟩ := ha
    exact State.busInv_of_between rfl ⟨nofun, nofun⟩ rfl rfl (idle ht)
  | pktSend =>
    obtain ⟨ht, bytes, rfl⟩ := ha
    exact State.busInv_of_between rfl ⟨nofun, nofun⟩ rfl
      (all_inTransfer_of_inScript (sendCommandPacket_inScript _ _)) (idle ht)
  | powerOn =>
    obtain ⟨hp, -, rfl⟩ := ha
    simp only [State.powerAllowed, Bool.and_eq_true] at hp
    obtain ⟨⟨ht, -⟩, -⟩ := hp
    exact State.busInv_of_between rfl ⟨nofun, nofun⟩ rfl (powerOnBody_inTransfer u) (idle ht)

theorem State.commandResult_busInv {s t : State} (hs : s.busInv) (h : s.commandResult t) : t.busInv := by
  obtain ⟨-, rfl⟩ | ⟨hc, e, sp, rfl⟩ | ⟨hc, cmd, body, sp, ha, rfl⟩ := h
  · exact State.busInv_congr rfl rfl rfl rfl hs
  · exact State.busInv_congr rfl rfl rfl rfl hs
  · exact State.accept_busInv hs hc ha rfl rfl

/-- Settles O58: the host's actions reset the block, accept a command on idle lines or leave the lines alone, and the
controller keeps the invariant, statement by statement. -/
theorem transfersStartFromIdleLines : Obligations.TransfersStartFromIdleLines := by
  intro s t hs h
  obtain ⟨rest, -, rfl⟩ | ⟨d, rest, -, he⟩ | ⟨off, d, rest, -, -, -, rfl⟩ | ⟨rest, w, rfl⟩ | ⟨-, hosts, hc⟩ :=
    step_cases h
  · exact (State.busInv_idle rfl).mpr nofun
  · exact State.commandResult_busInv (s := { s with host := rest }) hs (exec_decodeHost_result he)
  · obtain ⟨⟨v, hst, -⟩, hcont, hlvl, -⟩ := State.hostWrite_controller { s with host := rest } off d
    exact State.busInv_congr hcont hlvl (by rw [hst]) (by rw [hst]) hs
  · exact hs
  · exact State.controller_busInv (s := { s with host := hosts }) hs hc

end Sys2Proof.Machine

/-! ## Proofs: the transfers (O30 to O33, O36)

A transfer is two calls that select, five calls for each bit, and two calls that deselect. Each group is run once, for
any state that stands at its first call; the bits are an induction on the index of the current bit. -/

namespace Sys2Proof.Machine

/-! ### One call of a transfer (R9, R140, R141) -/

section TransferCall

variable {s : State} {c : Cont} {x : Xfer} (hh : s.host = []) (hc : s.cont = some c) (hx : c.xfer = some x)

include hh hc hx

/-- With no host action pending, a step inside a transfer makes its next call. -/
theorem step_transfer :
    step s = .next (s.call (x.prim s.cfg) fun t => { t with cont := some (c.afterCall x s.env.level) }) :=
  step_goto ((State.next_of_noHost hh).trans (State.controllerNext_transfer hc hx))

/-- A line call that is denied is counted, emits its Fail event and ends the command with its error (R144, R274). -/
theorem step_transfer_failed {f : FailKind × Handle × ErrCode} (hf : (x.prim s.cfg).failure = some f)
    (ha : s.env.answer = false) :
    step s = .next { s.countCall with
      cont := none, trace := s.trace ++ [.fail f.1 f.2.1], lvl := (x.prim s.cfg).failedLevels s.lvl
      status := s.status.raised f.2.2 (some c.cmd) } := by
  rw [step_transfer hh hc hx, s.call_failed _ _ f hf ha, State.failCall_eq]
  simp [hc]

end TransferCall

/-- Settles O36: the two line calls of a transfer, each denied. -/
theorem failedTransferStopsAtTheCall : Obligations.FailedTransferStopsAtTheCall := by
  intro s c x hh hc hx ha
  refine ⟨fun l v hp => ?_, fun hp => ?_⟩ <;>
    rw [step_transfer_failed hh hc hx (by rw [hp]; rfl) ha, hp] <;> rfl

/-! ### A state inside a transfer

A transfer that has made some of its calls stands at a call `x` of the command `c`, and differs from the state it started
from in its events, the levels, and the counts of calls and samples. -/

/-- The state inside a transfer of a command, after n line calls and m samples. -/
def State.within (s : State) (c : Cont) (x : Xfer) (es : List Event) (v : Levels) (n m : Nat) : State :=
  { s with
    cont := some { c with xfer := some x }
    trace := s.trace ++ es
    lvl := v
    env := { s.env with calls := s.env.calls + n, draws := s.env.draws + m } }

/-- A state inside a transfer that has made no call yet. -/
theorem State.within_start {s : State} {c : Cont} {x : Xfer} (hc : s.cont = some c) (hx : c.xfer = some x) :
    s.within c x [] s.lvl 0 0 = s := by
  have hk : some { c with xfer := some x } = s.cont := by rw [hc, ← hx]
  simp [State.within, hk]

section Within

variable {s : State} {c : Cont} {x x' : Xfer} {es : List Event} {v : Levels} {n m : Nat}

theorem State.within_answer : (s.within c x es v n m).env.answer = s.env.answerAt n := by
  simp [State.within, Env.answer, Env.answerAt]

theorem State.within_level : (s.within c x es v n m).env.level = s.env.levelAt m := by
  simp [State.within, Env.level, Env.levelAt]

/-- The sample a call takes does not depend on the count of calls. -/
theorem State.countCall_level (s : State) : s.countCall.env.level = s.env.level := rfl

theorem Cont.afterCall_of_some {b : Bool} (ha : x.after b = some x') :
    Cont.afterCall { c with xfer := some x } x b = { c with xfer := some x' } := by
  simp [Cont.afterCall, ha]

variable (hh : s.host = []) (ha : x.after (s.env.levelAt m) = some x')

include hh ha

/-- A step inside a transfer makes the call `x`, and a success goes on to `x'`. -/
theorem step_within :
    step (s.within c x es v n m) =
      .next ((s.within c x es v n m).call (x.prim s.cfg) fun t =>
        { t with cont := some { c with xfer := some x' } }) := by
  rw [step_transfer (s := s.within c x es v n m) hh rfl rfl, State.within_level, Cont.afterCall_of_some ha]
  rfl

theorem step_within_wait {k : Nat} {u : TimeUnit} (hp : x.prim s.cfg = .wait k u) :
    step (s.within c x es v n m) = .next (s.within c x' (es ++ [.wait k u]) v n m) := by
  rw [step_within hh ha, hp, State.call_sure _ _ _ rfl]
  simp [State.within, State.succeed, State.emit]

theorem step_within_setLine {l : Line} {b : Bool} (hp : x.prim s.cfg = .setLine l b) (hg : s.env.answerAt n = true) :
    step (s.within c x es v n m) =
      .next (s.within c x' (es ++ [.line l b]) (v.set l (Level.ofBool b)) (n + 1) m) := by
  rw [step_within hh ha, hp, State.call_granted _ _ _ (State.within_answer.trans hg), if_neg nofun]
  simp [State.within, State.succeed, State.emit, Nat.add_assoc]

theorem step_within_getSdo (hp : x.prim s.cfg = .getSdo) (hg : s.env.answerAt n = true) :
    step (s.within c x es v n m) =
      .next (s.within c x' (es ++ [.sample (s.env.levelAt m)]) v (n + 1) (m + 1)) := by
  rw [step_within hh ha, hp, State.call_granted _ _ _ (State.within_answer.trans hg), if_neg nofun, State.succeed,
    State.countCall_level, State.within_level]
  simp [State.within, Nat.add_assoc]

end Within

/-! ### The calls that select, that move one bit, and that deselect -/

/-- The transfer after the clock pulse of a bit: the next bit, or the end (R140, R141). -/
def Xfer.afterBit (d : Direction) : Nat → Xfer
  | 0 => ⟨d, 0, .frameWait⟩
  | i + 1 => ⟨d, i, .clockLow⟩

theorem Xfer.after_highHold (d : Direction) (i : Nat) (b : Bool) :
    Xfer.after ⟨d, i, .highHold⟩ b = some (Xfer.afterBit d i) := by
  cases i <;> rfl

section Groups

variable {s : State} {c : Cont} {d : Direction} {i : Nat} {es : List Event} {v : Levels} {n m : Nat} (hh : s.host = [])

include hh

/-- The two calls that select (R140, R141). -/
theorem runSteps_select (hg : s.env.grants (n + 1)) :
    runSteps 2 (s.within c ⟨d, i, .select⟩ es v n m) =
      .next (s.within c ⟨d, i, .clockLow⟩ (es ++ [.line .cs false, .wait s.cfg.tCss .tu]) { v with cs := .zero }
        (n + 1) m) := by
  rw [runSteps_succ 1 (step_within_setLine hh rfl rfl (hg n (by omega))), runSteps_one (step_within_wait hh rfl rfl),
    List.append_assoc]
  rfl

/-- The five calls of one bit of a write transfer (R140). -/
theorem runSteps_writeBit {w : Word9} (hg : s.env.grants (n + 3)) :
    runSteps 5 (s.within c ⟨.write w, i, .clockLow⟩ es v n m) =
      .next (s.within c (Xfer.afterBit (.write w) i) (es ++ writeBitEvents (w.getLsbD i))
        { v with sck := .one, sdi := Level.ofBool (w.getLsbD i) } (n + 3) m) := by
  rw [runSteps_succ 4 (step_within_setLine hh rfl rfl (hg n (by omega))),
    runSteps_succ 3 (step_within_setLine hh rfl rfl (hg (n + 1) (by omega))),
    runSteps_succ 2 (step_within_wait hh rfl rfl),
    runSteps_succ 1 (step_within_setLine hh rfl rfl (hg (n + 2) (by omega))),
    runSteps_one (step_within_wait hh (Xfer.after_highHold _ _ _) rfl)]
  simp [writeBitEvents, Levels.set, Level.ofBool]

/-- The five calls of one bit of a read transfer: SDO is sampled into the bit (R141). -/
theorem runSteps_readBit {raw : Half} (hg : s.env.grants (n + 3)) :
    runSteps 5 (s.within c ⟨.read raw, i, .clockLow⟩ es v n m) =
      .next (s.within c (Xfer.afterBit (.read (setRawBit raw i (s.env.levelAt m))) i)
        (es ++ readBitEvents (s.env.levelAt m)) { v with sck := .one } (n + 3) (m + 1)) := by
  rw [runSteps_succ 4 (step_within_setLine hh rfl rfl (hg n (by omega))),
    runSteps_succ 3 (step_within_wait hh rfl rfl),
    runSteps_succ 2 (step_within_getSdo hh rfl rfl (hg (n + 1) (by omega))),
    runSteps_succ 1 (step_within_setLine hh rfl rfl (hg (n + 2) (by omega))),
    runSteps_one (step_within_wait hh (Xfer.after_highHold _ _ _) rfl)]
  simp [readBitEvents, Levels.set, Level.ofBool]

/-- The last call of a transfer deselects, and the transfer is complete (R140, R141). -/
theorem step_within_deselect (hg : s.env.answerAt n = true) :
    step (s.within c ⟨d, i, .deselect⟩ es v n m) = .next { s with
      cont := some { c with xfer := none, ops := Xfer.opsAfter ⟨d, i, .deselect⟩ c.ops }
      trace := s.trace ++ (es ++ [.line .cs true])
      lvl := { v with cs := .one }
      env := { s.env with calls := s.env.calls + (n + 1), draws := s.env.draws + m } } := by
  rw [step_transfer (s := s.within c ⟨d, i, .deselect⟩ es v n m) hh rfl rfl, Xfer.prim,
    State.call_granted _ _ _ (State.within_answer.trans hg), if_neg nofun]
  simp [State.within, State.succeed, Cont.afterCall, Xfer.after, Levels.set, Level.ofBool, Nat.add_assoc]

/-- The two calls after the last bit (R140, R141). -/
theorem runSteps_deselect (hg : s.env.grants (n + 1)) :
    runSteps 2 (s.within c ⟨d, i, .frameWait⟩ es v n m) = .next { s with
      cont := some { c with xfer := none, ops := Xfer.opsAfter ⟨d, i, .deselect⟩ c.ops }
      trace := s.trace ++ (es ++ [.wait s.cfg.tIfd .tu, .line .cs true])
      lvl := { v with cs := .one }
      env := { s.env with calls := s.env.calls + (n + 1), draws := s.env.draws + m } } := by
  rw [runSteps_succ 1 (step_within_wait hh rfl rfl), runSteps_one (step_within_deselect hh (hg n (by omega))),
    List.append_assoc]
  rfl

/-- The bits of a write transfer from bit i down to bit 0 (R140). -/
theorem runSteps_writeBits {w : Word9} (hg : s.env.grants (n + 3 * (i + 1))) :
    runSteps (5 * (i + 1)) (s.within c ⟨.write w, i, .clockLow⟩ es v n m) =
      .next (s.within c ⟨.write w, 0, .frameWait⟩
        (es ++ (List.range (i + 1)).reverse.flatMap fun k => writeBitEvents (w.getLsbD k))
        { v with sck := .one, sdi := Level.ofBool (w.getLsbD 0) } (n + 3 * (i + 1)) m) := by
  induction i generalizing es v n with
  | zero => exact runSteps_writeBit hh hg
  | succ i ih =>
    have hn : n + 3 + 3 * (i + 1) = n + 3 * (i + 1 + 1) := by omega
    have hbit : s.env.grants (n + 3) := Env.grants_mono hg (by omega)
    refine runSteps_trans 5 (5 * (i + 1)) (by omega) (runSteps_writeBit hh hbit) ((ih (hn ▸ hg)).trans ?_)
    rw [hn, List.append_assoc, List.range_succ (n := i + 1), List.reverse_append]
    rfl

/-- A whole transfer, given the run of its bits: it is selected before them and deselected after them (R140, R141). -/
theorem runSteps_transfer {d' : Direction} {j k : Nat} (hc : s.cont = some c) (hx : c.xfer = some ⟨d, i, .select⟩)
    (hg : s.env.grants (n + 1))
    (bits : runSteps k (s.within c ⟨d, i, .clockLow⟩ [.line .cs false, .wait s.cfg.tCss .tu]
      { s.lvl with cs := .zero } 1 0) = .next (s.within c ⟨d', j, .frameWait⟩ es v n m)) :
    runSteps (2 + (k + 2)) s = .next { s with
      cont := some { c with xfer := none, ops := Xfer.opsAfter ⟨d', j, .deselect⟩ c.ops }
      trace := s.trace ++ (es ++ [.wait s.cfg.tIfd .tu, .line .cs true])
      lvl := { v with cs := .one }
      env := { s.env with calls := s.env.calls + (n + 1), draws := s.env.draws + m } } := by
  have select := runSteps_select (c := c) (d := d) (i := i) (es := []) (v := s.lvl) (n := 0) (m := 0) hh
    (Env.grants_mono hg (by omega))
  rw [State.within_start hc hx] at select
  exact runSteps_trans 2 (k + 2) rfl select (runSteps_trans k 2 rfl bits (runSteps_deselect hh hg))

end Groups

/-- Settles O30: nine bits, between the calls that select and that deselect. -/
theorem writeTransferEmitsItsEvents : Obligations.WriteTransferEmitsItsEvents := by
  intro s c w hh hc hx hg
  have bits := Env.grants_mono hg (m := 1 + 3 * (8 + 1)) (by omega)
  exact ⟨runSteps_transfer hh hc hx hg (runSteps_writeBits (i := 8) hh bits), rfl⟩

/-! ### The samples of a read transfer (R101, R141) -/

theorem getLsbD_setRawBit (raw : Half) {i : Nat} (b : Bool) (hi : i < 16) (j : Nat) :
    (setRawBit raw i b).getLsbD j = if j = i then b else raw.getLsbD j := by
  unfold setRawBit
  rw [← BitVec.twoPow_eq]
  by_cases hj : j = i
  · cases b <;> simp [hj, hi]
  · have hlt : raw.getLsbD j = true → j < 16 := BitVec.lt_of_getLsbD
    cases b
    · simpa [hj, BitVec.getLsbD_twoPow, Ne.symm hj] using hlt
    · simp [hj, BitVec.getLsbD_twoPow, Ne.symm hj]

/-- `raw'` holds the samples from the m-th on in bits i down to 0, and is `raw` above them (R141). -/
structure Env.gathers (e : Env) (m : Nat) (raw : Half) (i : Nat) (raw' : Half) : Prop where
  sampled : ∀ j, j ≤ i → raw'.getLsbD j = e.levelAt (m + (i - j))
  kept : ∀ j, i < j → raw'.getLsbD j = raw.getLsbD j

theorem Env.gathers.first {e : Env} {m i : Nat} {raw raw' : Half} (h : e.gathers m raw i raw') :
    raw'.getLsbD i = e.levelAt m := by
  simpa only [Nat.sub_self, Nat.add_zero] using h.sampled i (Nat.le_refl i)

/-- The last sample goes to bit 0. -/
theorem Env.gathers_zero (e : Env) (m : Nat) (raw : Half) : e.gathers m raw 0 (setRawBit raw 0 (e.levelAt m)) where
  sampled j hj := by
    obtain rfl := Nat.le_zero.mp hj
    exact getLsbD_setRawBit raw _ (by decide) 0
  kept j hj := by rw [getLsbD_setRawBit raw _ (by decide), if_neg (Nat.ne_of_gt hj)]

/-- The first sample goes to the highest bit, and the others below it. -/
theorem Env.gathers_succ {e : Env} {m i : Nat} {raw raw' : Half} (hi : i + 1 < 16)
    (h : e.gathers (m + 1) (setRawBit raw (i + 1) (e.levelAt m)) i raw') : e.gathers m raw (i + 1) raw' where
  sampled j hj := by
    obtain rfl | hlt := Nat.eq_or_lt_of_le hj
    · rw [h.kept _ (by omega), getLsbD_setRawBit _ _ hi]
      simp
    · rw [h.sampled j (by omega)]
      congr 1
      omega
  kept j hj := by
    rw [h.kept j (by omega), getLsbD_setRawBit _ _ hi, if_neg (by omega)]

/-- The bits of a read transfer from bit i down to bit 0 (R141). -/
theorem runSteps_readBits {s : State} {c : Cont} {raw : Half} {i : Nat} {es : List Event} {v : Levels} {n m : Nat}
    (hh : s.host = []) (hi : i < 16) (hg : s.env.grants (n + 3 * (i + 1))) :
    ∃ raw', s.env.gathers m raw i raw' ∧
      runSteps (5 * (i + 1)) (s.within c ⟨.read raw, i, .clockLow⟩ es v n m) =
        .next (s.within c ⟨.read raw', 0, .frameWait⟩
          (es ++ (List.range (i + 1)).reverse.flatMap fun k => readBitEvents (raw'.getLsbD k))
          { v with sck := .one } (n + 3 * (i + 1)) (m + (i + 1))) := by
  induction i generalizing raw es v n m with
  | zero =>
    have hraw := s.env.gathers_zero m raw
    refine ⟨_, hraw, (runSteps_readBit hh hg).trans ?_⟩
    generalize setRawBit raw 0 (s.env.levelAt m) = raw' at hraw
    rw [← hraw.first]
    rfl
  | succ i ih =>
    have hn : n + 3 + 3 * (i + 1) = n + 3 * (i + 1 + 1) := by omega
    have hm : m + 1 + (i + 1) = m + (i + 1 + 1) := by omega
    have hbit : s.env.grants (n + 3) := Env.grants_mono hg (by omega)
    obtain ⟨raw', hraw, rest⟩ := ih (raw := setRawBit raw (i + 1) (s.env.levelAt m)) (m := m + 1)
      (es := es ++ readBitEvents (s.env.levelAt m)) (v := { v with sck := .one }) (by omega) (hn ▸ hg)
    have hraw := Env.gathers_succ hi hraw
    refine ⟨raw', hraw, runSteps_trans 5 (5 * (i + 1)) (by omega) (runSteps_readBit hh hbit) (rest.trans ?_)⟩
    rw [hn, hm, List.append_assoc, List.range_succ (n := i + 1), List.reverse_append, ← hraw.first]
    rfl

/-- Settles O31: sixteen bits, between the calls that select and that deselect. -/
theorem readTransferEmitsItsEvents : Obligations.ReadTransferEmitsItsEvents := by
  intro s c hh hc hx hg
  have hbits := Env.grants_mono hg (m := 1 + 3 * (15 + 1)) (by omega)
  obtain ⟨raw, hraw, bits⟩ := runSteps_readBits (i := 15) hh (by decide) hbits
  refine ⟨raw, fun k hk => ?_, runSteps_transfer hh hc hx hg bits, rfl⟩
  rw [hraw.sampled (15 - k) (by omega)]
  congr 1
  omega

/-! ### The value of a read (R142, R236, R238) -/

/-- `swap16` exchanges the two bytes (R142). -/
theorem swap16_bytes (raw : Half) :
    (swap16 raw).extractLsb' 0 8 = raw.extractLsb' 8 8 ∧ (swap16 raw).extractLsb' 8 8 = raw.extractLsb' 0 8 :=
  ⟨BitVec.extractLsb'_append_eq_right, BitVec.extractLsb'_append_eq_left⟩

/-- The statement that returns a read completes its command. -/
theorem step_returnRead {s : State} {c : Cont} {raw : Half} {rest : List Op} (hh : s.host = []) (hc : s.cont = some c)
    (hx : c.xfer = none) (ho : c.ops = .returnRead raw :: rest) :
    step s = .next (State.complete { s with rdata := swap16 raw, rraw := raw } c.cmd) := by
  rw [step_statement hh hc hx, State.statementNext, ho, Next.outcome]

/-- Settles O32: the swap byte by byte, and the one step that returns the read and leaves LC as it is. -/
theorem readValueIsByteSwapped : Obligations.ReadValueIsByteSwapped := by
  refine ⟨swap16_bytes, fun s c raw rest hh hc hx ho hcmd => ⟨1, ?_⟩⟩
  rw [runSteps_one (step_returnRead hh hc hx ho)]
  obtain hcmd | hcmd := hcmd <;> rw [hcmd] <;> rfl

/-! ### Times and shape of the event lists (R143, R147) -/

/-- The events of a transfer around those of its bits. -/
def framedEvents (p : Params) (bits : List Event) : List Event :=
  [.line .cs false, .wait p.tCss .tu] ++ bits ++ [.wait p.tIfd .tu, .line .cs true]

theorem writeEvents_eq_framed (p : Params) (w : Word9) :
    writeEvents p w = framedEvents p ((List.range 9).reverse.flatMap fun i => writeBitEvents (w.getLsbD i)) := rfl

theorem readEvents_eq_framed (p : Params) (raw : Half) :
    readEvents p raw = framedEvents p ((List.range 16).reverse.flatMap fun i => readBitEvents (raw.getLsbD i)) := rfl

theorem traceTU_framed (p : Params) (bits : List Event) :
    traceTU (framedEvents p bits) = p.tCss + traceTU bits + p.tIfd := by
  simp [traceTU, framedEvents, Event.tu, Nat.add_assoc]

theorem count_clockHigh_framed (p : Params) (bits : List Event) :
    (framedEvents p bits).count (.line .sck true) = bits.count (.line .sck true) := by
  simp [framedEvents]

/-- Select is driven by the first and the last event alone, if no bit drives it (R147). -/
theorem framed_select {p : Params} {bits : List Event} (h : ∀ v, Event.line .cs v ∉ bits) :
    ∃ es, framedEvents p bits = .line .cs false :: (es ++ [.line .cs true]) ∧ ∀ v, Event.line .cs v ∉ es :=
  ⟨.wait p.tCss .tu :: (bits ++ [.wait p.tIfd .tu]), by simp [framedEvents], fun v => by simp [h v]⟩

section Bits

variable {f : Nat → List Event} (is : List Nat)

theorem traceTU_flatMap {k : Nat} (h : ∀ i, traceTU (f i) = k) : traceTU (is.flatMap f) = is.length * k := by
  induction is with
  | nil => simp [traceTU]
  | cons i is ih =>
    have happend : traceTU (f i ++ is.flatMap f) = traceTU (f i) + traceTU (is.flatMap f) := by simp [traceTU]
    rw [List.flatMap_cons, happend, h, ih, List.length_cons, Nat.succ_mul, Nat.add_comm]

theorem count_flatMap_of_one {e : Event} (h : ∀ i, (f i).count e = 1) : (is.flatMap f).count e = is.length := by
  simp [List.count_flatMap, Function.comp_def, h]

end Bits

theorem traceTU_writeEvents (p : Params) (w : Word9) : traceTU (writeEvents p w) = p.tCss + 18 + p.tIfd := by
  rw [writeEvents_eq_framed, traceTU_framed, traceTU_flatMap (k := 2) _ fun _ => rfl]
  rfl

theorem traceTU_readEvents (p : Params) (raw : Half) : traceTU (readEvents p raw) = p.tCss + 32 + p.tIfd := by
  rw [readEvents_eq_framed, traceTU_framed, traceTU_flatMap (k := 2) _ fun _ => rfl]
  rfl

/-- Settles O33: the times and counts are those of the frame and of one bit, and no bit drives select. -/
theorem transferTimesAndShape : Obligations.TransferTimesAndShape := by
  refine fun p w raw => ⟨traceTU_writeEvents p w, traceTU_readEvents p raw, traceTU_writeEvents _ w,
    traceTU_readEvents _ raw, ?_, rfl, ?_, rfl, ?_, ?_, ?_⟩
  · rw [writeEvents_eq_framed, count_clockHigh_framed, count_flatMap_of_one _ fun _ => rfl]
    rfl
  · rw [readEvents_eq_framed, count_clockHigh_framed, count_flatMap_of_one _ fun _ => rfl]
    rfl
  · simp [readEvents_eq_framed, framedEvents, readBitEvents]
  · rw [writeEvents_eq_framed]
    exact framed_select fun v => by simp [writeBitEvents]
  · rw [readEvents_eq_framed]
    exact framed_select fun v => by simp [readBitEvents]

end Sys2Proof.Machine

/-! ## Proofs: script instructions run to their end (O23 to O27, O37, O51)

A command between transfers is seen as a state, its continuation, and the statements that the continuation still holds.
Each kind of statement has its step or its run in this form; a script instruction is its fetch, its own statements and
the advance of pc, which `runSteps_instr` puts together. -/

namespace Sys2Proof.Machine

/-! ### A command and its statements (R51) -/

/-- The state in which the command of a continuation has the given statements to run. -/
def State.running (s : State) (c : Cont) (ops : List Op) : State := { s with cont := some { c with ops := ops } }

theorem State.running_self {s : State} {c : Cont} {ops : List Op} (hc : s.cont = some c) (ho : c.ops = ops) :
    s.running c ops = s := by
  have hk : some { c with ops := ops } = s.cont := by rw [hc, ← ho]
  simp [State.running, hk]

theorem Env.grants_add {e : Env} {m n : Nat} (h : e.grants (m + n)) : e.grants m ∧ (e.afterCalls m).grants n :=
  ⟨Env.grants_mono h (Nat.le_add_right m n), Env.grants_afterCalls h⟩

theorem Env.grants_succ {e : Env} {n : Nat} (h : e.grants (n + 1)) : e.answer = true ∧ (e.afterCalls 1).grants n :=
  ⟨h 0 (Nat.succ_pos n), Env.grants_afterCalls (Nat.add_comm n 1 ▸ h)⟩

theorem Env.afterCalls_afterCalls (e : Env) (m n : Nat) : (e.afterCalls m).afterCalls n = e.afterCalls (m + n) := by
  simp [Env.afterCalls, Nat.add_assoc]

/-- The statements that send wire words (R165). -/
def frameOps (ws : List (Role × Byte)) : List Op := ws.map fun rb => .frame rb.1 rb.2

/-- The events of a delay of a count and a unit (R14). -/
def delayEvents (count : Half) (u : TimeUnit) : List Event := if count = 0 then [] else [.wait count.toNat u]

theorem State.fetchScript_congr {s t : State} (ph : Phase) (hm : t.mem = s.mem) (he : t.epoch = s.epoch)
    (hsp : t.sp = s.sp) : t.fetchScript ph = s.fetchScript ph := by
  simp only [State.fetchScript, State.scriptFrom_congr hm he, hsp]

section Statement

variable {s : State} {c : Cont} {rest : List Op} (hh : s.host = []) (hx : c.xfer = none)

theorem State.inCommand_running {ops : List Op} (k : Cont → State) (hx : c.xfer = none) :
    (s.running c ops).inCommand k = .next (k { c with ops := ops }) :=
  State.inCommand_eq (c := { c with ops := ops }) k rfl hx

include hh hx

theorem step_running (o : Op) :
    step (s.running c (o :: rest)) = ((s.running c (o :: rest)).statementNext { c with ops := o :: rest }).outcome :=
  step_statement hh rfl hx

theorem step_advance (n : Nat) :
    step (s.running c (.advance n :: rest)) =
      .next (State.running { s with sp := s.sp + BitVec.ofNat 16 n } c rest) :=
  step_running hh hx _

theorem step_setPState (p : PowerState) :
    step (s.running c (.setPState p :: rest)) = .next (State.running { s with status.pstate := p } c rest) :=
  step_running hh hx _

theorem step_runPhase (ph : Phase) (ptr : Half) :
    step (s.running c (.runPhase ph ptr :: rest)) =
      .next (State.running { s with sp := ptr } { c with phase := some ph } (.script :: rest)) :=
  step_running hh hx _

theorem step_frame (r : Role) (b : Byte) :
    step (s.running c (.frame r b :: rest)) =
      .next (s.running { c with xfer := some (Xfer.startWrite (wireWord s.cfg r b)) } rest) :=
  (step_running hh hx _).trans ((exec_roleInstr r b _).trans (State.inCommand_running (s := s) _ hx))

theorem step_script {ph : Phase} {i : Instr} (hp : c.phase = some ph) (hf : s.fetchScript ph = .ok i) :
    step (s.running c (.script :: rest)) = exec i (s.running c rest) := by
  have hf : (s.running c (.script :: rest)).fetchScript ph = .ok i :=
    (State.fetchScript_congr (s := s) (t := s.running c _) ph rfl rfl rfl).trans hf
  rw [step_running hh hx, State.statementNext_script (c := { c with ops := .script :: rest }) _ rfl hp hf]
  rfl

theorem step_sureCall {p : Prim} (hf : p.failure = none) :
    step (s.running c (.prim p :: rest)) = .next ((s.succeed p).running c rest) := by
  rw [step_prim_sure (s := s.running c (.prim p :: rest)) (c := { c with ops := .prim p :: rest }) hh rfl hx rfl hf]
  cases p <;> rfl

theorem step_grantedCall {p : Prim} {f : FailKind × Handle × ErrCode} (hf : p.failure = some f)
    (ha : s.env.answer = true) :
    step (s.running c (.prim p :: rest)) = .next ((s.countCall.succeed p).running c rest) := by
  rw [step_prim_granted (s := s.running c (.prim p :: rest)) (c := { c with ops := .prim p :: rest }) hh rfl hx rfl hf
    ha]
  cases p <;> rfl

/-- END leaves the phase in one step (R181). -/
theorem step_endPhase {ph : Phase} (hp : c.phase = some ph) (hf : s.fetchScript ph = .ok .endPhase) :
    step (s.running c (.script :: rest)) = .next (s.running { c with phase := none } rest) :=
  (step_script hh hx hp hf).trans ((exec_endPhase _).trans (State.inCommand_running (s := s) _ hx))

/-- A delay emits its wait, or takes no step (R14). -/
theorem runSteps_delay (count : Half) (u : TimeUnit) :
    runSteps (delayEvents count u).length (s.running c (delayOps count u ++ rest)) =
      .next (State.running { s with trace := s.trace ++ delayEvents count u } c rest) := by
  unfold delayOps delayEvents
  split
  · simp
  · exact runSteps_one (step_sureCall hh hx rfl)

/-- A wire word whose line calls succeed (R140, R165). -/
theorem runSteps_frame {r : Role} {b : Byte} (hg : s.env.grants 29) :
    runSteps 50 (s.running c (.frame r b :: rest)) = .next ((s.sent [(r, b)]).running c rest) := by
  obtain ⟨transfer, -⟩ := writeTransferEmitsItsEvents
    (s.running { c with xfer := some (Xfer.startWrite (wireWord s.cfg r b)) } rest) _ (wireWord s.cfg r b) hh rfl rfl hg
  rw [runSteps_succ 49 (step_frame hh hx r b), transfer]
  simp [State.running, State.sent, wordEvents, Levels.afterWords, hx]

theorem runSteps_frames {ws : List (Role × Byte)} (hg : s.env.grants (29 * ws.length)) :
    runSteps (50 * ws.length) (s.running c (frameOps ws ++ rest)) = .next ((s.sent ws).running c rest) := by
  induction ws generalizing s with
  | nil => simp [State.sent, wordEvents, Levels.afterWords, Env.afterCalls, frameOps]
  | cons rb ws ih =>
    rw [List.length_cons, Nat.mul_succ, Nat.add_comm] at hg ⊢
    obtain ⟨first, others⟩ := Env.grants_add hg
    have word := runSteps_frame (c := c) (rest := frameOps ws ++ rest) (r := rb.1) (b := rb.2) hh hx first
    refine (runSteps_add 50 (50 * ws.length) word).trans ((ih (s := s.sent [rb]) hh others).trans ?_)
    simp [State.running, State.sent, wordEvents, Levels.afterWords, Env.afterCalls, Nat.add_assoc, Nat.mul_succ]
    omega

/-! ### Script instructions (R180 to R185) -/

/-- A script instruction that puts statements before the loop: its fetch, the run of its statements, and the advance of
pc by its length. -/
theorem runSteps_instr {ph : Phase} {i : Instr} {stmts : List Op} {t : State} {k n : Nat} (hp : c.phase = some ph)
    (hf : s.fetchScript ph = .ok i) (he : ∀ u : State, u.cfg = s.cfg → exec i u = u.expand stmts n)
    (run : runSteps k (s.running c (stmts ++ .advance n :: .script :: rest)) =
      .next (t.running c (.advance n :: .script :: rest))) (ht : t.host = []) :
    runSteps (2 + k) (s.running c (.script :: rest)) =
      .next (State.running { t with sp := t.sp + BitVec.ofNat 16 n } c (.script :: rest)) := by
  have fetch : step (s.running c (.script :: rest)) =
      .next (s.running c (stmts ++ .advance n :: .script :: rest)) := by
    rw [step_script hh hx hp hf, he (s.running c rest) rfl]
    exact State.inCommand_running _ hx
  exact runSteps_trans 1 (k + 1) (by omega) (runSteps_one fetch)
    (runSteps_trans k 1 rfl run (runSteps_one (step_advance ht hx n)))

/-- An instruction that sends wire words (R182, R183). -/
theorem runSteps_wordsInstr {ph : Phase} {i : Instr} {ws : List (Role × Byte)} {n : Nat} (hp : c.phase = some ph)
    (hf : s.fetchScript ph = .ok i) (he : ∀ u : State, u.cfg = s.cfg → exec i u = u.expand (frameOps ws) n)
    (hg : s.env.grants (29 * ws.length)) :
    runSteps (2 + 50 * ws.length) (s.running c (.script :: rest)) =
      .next (State.running { s.sent ws with sp := s.sp + BitVec.ofNat 16 n } c (.script :: rest)) :=
  runSteps_instr (t := s.sent ws) hh hx hp hf he (runSteps_frames hh hx hg) hh

/-- An instruction that waits, or does nothing (R184, R185). -/
theorem runSteps_delayInstr {ph : Phase} {i : Instr} {count : Half} {u : TimeUnit} (hp : c.phase = some ph)
    (hf : s.fetchScript ph = .ok i) (he : ∀ t : State, exec i t = t.expand (delayOps count u) 3) :
    runSteps (2 + (delayEvents count u).length) (s.running c (.script :: rest)) =
      .next (State.running { s with sp := s.sp + 3, trace := s.trace ++ delayEvents count u } c (.script :: rest)) :=
  runSteps_instr (t := { s with trace := s.trace ++ delayEvents count u }) hh hx hp hf (fun t _ => he t)
    (runSteps_delay hh hx count u) hh

end Statement

theorem writeRegister_eq_frameOps (id : Byte) (value : Half) :
    writeRegister id value = frameOps (registerWords id value) := rfl

theorem sendCommandPacket_eq_frameOps (p : Params) (bytes : List Byte) :
    sendCommandPacket p bytes = frameOps (packetWords p bytes) := by
  simp [sendCommandPacket, packetWords, frameOps, writeRegister_eq_frameOps]

theorem exec_regw (id : Byte) (value : Half) (s : State) :
    exec (.regw id value) s = s.expand (frameOps (registerWords id value)) 4 := rfl

theorem exec_pkt (payload : List Byte) (s : State) :
    exec (.pkt payload) s = s.expand (frameOps (packetWords s.cfg payload)) (2 + payload.length) := by
  rw [← sendCommandPacket_eq_frameOps]
  rfl

theorem exec_delayMs (count : Half) (s : State) : exec (.delayMs count) s = s.expand (delayOps count .ms) 3 := rfl

theorem exec_delayUs (count : Half) (s : State) : exec (.delayUs count) s = s.expand (delayOps count .us) 3 := rfl

theorem length_packetWords (p : Params) (bytes : List Byte) : (packetWords p bytes).length = 4 + bytes.length := by
  simp [packetWords, registerWords]
  omega

/-- Every wire word has 49 events (R140). -/
theorem length_wordEvents (p : Params) (ws : List (Role × Byte)) : (wordEvents p ws).length = 49 * ws.length := by
  induction ws with
  | nil => rfl
  | cons rb ws ih =>
    have word : (writeEvents p (wireWord p rb.1 rb.2)).length = 49 := rfl
    rw [wordEvents, List.flatMap_cons, List.length_append, word, ← wordEvents, ih, List.length_cons]
    omega

/-- Settles O26: the three words of a register write. -/
theorem regwRuns : Obligations.RegwRuns := by
  intro s c ph rest id value hh hc hx hp ho hf hg
  have run := runSteps_wordsInstr (rest := rest) hh hx hp hf (fun u _ => exec_regw id value u) hg
  rw [State.running_self hc ho] at run
  exact ⟨run.trans (congrArg _ (State.running_self (by exact hc) ho)), length_wordEvents _ _⟩

/-- Settles O27: the words of a command packet. -/
theorem pktRuns : Obligations.PktRuns := by
  intro s c ph rest payload hh hc hx hp ho hf hg
  rw [← length_packetWords s.cfg] at hg ⊢
  have run := runSteps_wordsInstr (rest := rest) hh hx hp hf (fun u hu => hu ▸ exec_pkt payload u) hg
  rw [State.running_self hc ho] at run
  refine ⟨run.trans (congrArg _ (State.running_self (by exact hc) ho)), ?_⟩
  rw [length_wordEvents, Nat.mul_comm]

/-- The fetch at pc of a delay instruction whose bytes the host has written. -/
theorem State.fetchScript_delay {s : State} (ph : Phase) {op lo hi : Byte} {u : TimeUnit} (hfit : s.sp.toNat + 2 < 4096)
    (hop : scriptByte s.mem s.sp.toNat = some op) (hlo : scriptByte s.mem (s.sp.toNat + 1) = some lo)
    (hhi : scriptByte s.mem (s.sp.toNat + 2) = some hi) (hu : (op = 0x03 ∧ u = .ms) ∨ (op = 0x04 ∧ u = .us)) :
    ∃ i, s.fetchScript ph = .ok i ∧ ∀ t : State, exec i t = t.expand (delayOps (half hi lo) u) 3 := by
  have fetch {i : Instr} (hi : inBody ph i) (h : s.holdsAt s.sp.toNat i) : s.fetchScript ph = .ok i :=
    State.fetchScript_of_holdsAt rfl rfl rfl (.inr hi) h
  have hval : s.halfAt (s.sp.toNat + 1) = half hi lo := by
    rw [State.halfAt, State.byteAt_scriptByte hlo, State.byteAt_scriptByte hhi]
  obtain ⟨rfl, rfl⟩ | ⟨rfl, rfl⟩ := hu
  · exact ⟨.delayMs _, fetch trivial (hval ▸ State.holdsAt_delayMs hfit hop), exec_delayMs _⟩
  · exact ⟨.delayUs _, fetch trivial (hval ▸ State.holdsAt_delayUs hfit hop), exec_delayUs _⟩

/-- Settles O25: the fetch reads the count, and a delay of it follows. -/
theorem delayInstructionsRun : Obligations.DelayInstructionsRun := by
  intro s c ph rest op lo hi u hh hc hx hp ho hfit hop hlo hhi hu
  obtain ⟨i, hf, he⟩ := State.fetchScript_delay ph hfit hop hlo hhi hu
  have run := runSteps_delayInstr (rest := rest) hh hx hp hf he
  rw [State.running_self hc ho, State.running_self (by exact hc) ho] at run
  rw [← half_toNat]
  refine ⟨fun h0 => ⟨_, run.trans ?_⟩, fun h0 => ⟨_, run.trans ?_⟩⟩
  · rw [delayEvents, if_pos (BitVec.eq_of_toNat_eq h0), List.append_nil]
  · rw [delayEvents, if_neg fun h => h0 (by rw [h]; rfl)]

/-- Settles O24: each instruction's statements, as `State.expand` puts them before those left. -/
theorem scriptInstructionsExpand : Obligations.ScriptInstructionsExpand := by
  intro s c hc hx
  have expanded (stmts : List Op) (n : Nat) : s.expand stmts n =
      .next { s with cont := some { c with ops := stmts ++ [.advance n, .script] ++ c.ops } } := by
    rw [List.append_assoc]
    exact State.inCommand_eq _ hc hx
  refine ⟨fun id value => expanded _ 4, fun payload hlen => ?_, fun count => expanded _ 3, fun count => expanded _ 3⟩
  have hcount : BitVec.ofNat 16 payload.length = half 0x00 (BitVec.ofNat 8 payload.length) := by
    refine BitVec.eq_of_toNat_eq ?_
    rw [half_toNat, toNat_payloadCount hlen, BitVec.toNat_ofNat, Nat.mod_eq_of_lt (by omega)]
    rfl
  refine (expanded (sendCommandPacket s.cfg payload) _).trans ?_
  rw [sendCommandPacket, hcount, writeRegister, lowByte_half, highByte_half]
  simp

/-! ### The end of a phase (R181, R212) -/

/-- The fetch at pc of an END that the host has written. -/
theorem State.fetchScript_endPhase {s : State} (ph : Phase) (hlt : s.sp.toNat < 4096)
    (hop : scriptByte s.mem s.sp.toNat = some 0x00) : s.fetchScript ph = .ok .endPhase :=
  State.fetchScript_of_holdsAt rfl rfl rfl (.inl rfl) (State.holdsAt_endPhase hlt hop)

/-- The backlight is enabled and set, and the display is on (R212). -/
theorem runSteps_backlight {s : State} {c : Cont} {b : BitVec 7} {rest : List Op} (hh : s.host = [])
    (hx : c.xfer = none) (hg : s.env.grants 2) :
    runSteps 3 (s.running c (.prim .blEnable :: .prim (.blSet b) :: .setPState .displayOn :: rest)) =
      .next (State.running { s with
        status.pstate := .displayOn
        trace := s.trace ++ [.blEnable, .blSet b]
        env := s.env.afterCalls 2 } c rest) := by
  obtain ⟨enable, hg⟩ := Env.grants_succ hg
  obtain ⟨set, -⟩ := Env.grants_succ hg
  rw [runSteps_succ 2 (step_grantedCall hh hx rfl enable),
    runSteps_succ 1 (step_grantedCall (s := s.countCall.succeed .blEnable) hh hx rfl set),
    runSteps_one (step_setPState (by simpa using hh) hx .displayOn)]
  simp [State.succeed, Env.afterCalls, Nat.add_assoc]

/-- Settles O23: END's one step, then the statements that its phase is followed by. -/
theorem endReturnsFromThePhase : Obligations.EndReturnsFromThePhase := by
  refine ⟨decodeScript_endPhase, fun s c hc hx => State.inCommand_eq _ hc hx,
    fun s c ph p rest hh hc hx hp ho hlt hop => ⟨2, ?_⟩, fun s c b rest hh hc hx hp ho hlt hop hg => ?_⟩
  · have leave := step_endPhase (rest := .setPState p :: rest) hh hx hp (State.fetchScript_endPhase ph hlt hop)
    rw [State.running_self hc ho] at leave
    exact (runSteps_succ 1 leave).trans (runSteps_one (step_setPState hh (by exact hx) p))
  · have leave := step_endPhase (rest := [.prim .blEnable, .prim (.blSet b), .setPState .displayOn] ++ rest) hh hx hp
      (State.fetchScript_endPhase .three hlt hop)
    rw [State.running_self hc (by exact ho)] at leave
    exact ⟨⟨1, runSteps_one leave⟩, ⟨4, (runSteps_succ 3 leave).trans (runSteps_backlight hh (by exact hx) hg)⟩⟩

/-! ### A rail that fails (R208, R213, R215) -/

/-- With no host action and no command, the machine waits. -/
theorem runSteps_waits {s : State} (hh : s.host = []) (hc : s.cont = none) (n : Nat) : runSteps n s = .next s := by
  have wait : step s = .next s := step_goto (by rw [State.next_of_noHost hh, State.controllerNext, hc])
  induction n with
  | zero => rfl
  | succ n ih => rw [runSteps_succ n wait, ih]

/-- Settles O37: the denied call ends the command, and then nothing is left to do. -/
theorem railFailureAbortsPowerOn : Obligations.RailFailureAbortsPowerOn := by
  intro s c k rest hh hc hcmd hx ho ha n
  have raised : s.status.raised .rail (some c.cmd) = { s.status with err := .rail, aborted := true } := by
    simp [Status.raised, hcmd]
  rw [runSteps_succ n (step_prim_failed hh hc hx ho rfl ha), runSteps_waits (by exact hh) rfl, raised]
  rfl

/-! ### What an instruction leaves unchanged as it starts -/

/-- What a script instruction, a wire word or a read may change: the continuation, and ERR for a reserved opcode. -/
def State.startedBy (i : Instr) (s t : State) : Prop :=
  (∃ k, t = { s with cont := some k }) ∨
    ((∃ op, i = .reservedScript op) ∧ t = { s with status.err := .script, cont := none })

/-- An instruction that runs in a command between transfers. -/
theorem State.startedBy_inCommand {i : Instr} {s t : State} {k : Cont → Cont}
    (h : s.inCommand (fun c => { s with cont := some (k c) }) = .next t) : s.startedBy i t := by
  obtain ⟨c, -, -, rfl⟩ := State.inCommand_cases h
  exact .inl ⟨_, rfl⟩

/-- Settles O51: each instruction starts within the continuation, but for the reserved opcode. -/
theorem scriptAndWireFrame : Obligations.ScriptAndWireFrame := by
  intro i s t hi h
  have started : s.startedBy i t := by
    cases i with
    | reservedScript op =>
      cases h
      exact .inr ⟨⟨op, rfl⟩, rfl⟩
    | endPhase | regw | pkt | delayMs | delayUs | wireCmd | wireData | wireDsi | read16 =>
      exact State.startedBy_inCommand h
    | _ => simp at hi
  obtain ⟨k, rfl⟩ | ⟨⟨op, rfl⟩, rfl⟩ := started
  · exact ⟨rfl, fun _ => rfl, fun _ => rfl, fun _ => rfl⟩
  · exact ⟨rfl, fun hn => absurd rfl (hn op), fun _ => rfl, fun _ => rfl⟩

end Sys2Proof.Machine

/-! ## Proofs: what validation rejects (O19 to O21)

After legal instructions validation stands at one offset with rounds left (`State.validate_legalUpTo`), so a rejection
is one more round. POWER_ON does what the first phase that does not pass decides. -/

namespace Sys2Proof.Machine

/-! ### One round that rejects (R195) -/

/-- What makes the instruction with the given opcode illegal in a phase, the PLL order apart (R123, R195). -/
def illegalAt (m : Mem) (ph : Phase) (pc : Nat) (op : Byte) : Prop :=
  5 ≤ op.toNat ∨ (op = 0x01 ∧ 4096 ≤ pc + 3) ∨ (op = 0x02 ∧ ph ≠ .two) ∨ (op = 0x02 ∧ 4096 ≤ pc + 1) ∨
    (op = 0x02 ∧ scriptByte m (pc + 1) = some 0) ∨
    (op = 0x02 ∧ ∃ n, scriptByte m (pc + 1) = some n ∧ 4096 ≤ pc + 1 + n.toNat) ∨
    ((op = 0x03 ∨ op = 0x04) ∧ 4096 ≤ pc + 2)

section Rejects

variable {p : Params} {m : Mem} {ph : Phase} {fuel pc : Nat} {latch : Bool}

theorem validateFrom_pastEnd (h : 4096 ≤ pc) : validateFrom p m ph (fuel + 1) pc latch = .reject .script pc :=
  if_pos h

theorem validateFrom_reserved {op : Byte} (hpc : pc < 4096) (h : scriptByte m pc = some op) (hop : 5 ≤ op.toNat) :
    validateFrom p m ph (fuel + 1) pc latch = .reject .script pc := by
  rw [validateFrom, if_neg (Nat.not_le_of_lt hpc), h]
  dsimp only
  split
  case h_6 => rfl
  all_goals omega

theorem validateFrom_illegal {op : Byte} (hpc : pc < 4096) (h : scriptByte m pc = some op)
    (hi : illegalAt m ph pc op) : validateFrom p m ph (fuel + 1) pc latch = .reject .script pc := by
  have hlt : ¬ 4096 ≤ pc := Nat.not_le_of_lt hpc
  obtain hop | ⟨rfl, hcut⟩ | ⟨rfl, hph⟩ | ⟨rfl, hcut⟩ | ⟨rfl, h0⟩ | ⟨rfl, n, hn, hcut⟩ | ⟨rfl | rfl, hcut⟩ := hi
  · exact validateFrom_reserved hpc h hop
  · simp [validateFrom, h, hlt, hcut]
  · simp [validateFrom, h, hlt, hph]
  · simp [validateFrom, h, hlt, hcut]
  · simp [validateFrom, h, hlt, h0]
  · simp [validateFrom, h, hlt, hn, hcut]
  · simp [validateFrom, h, hlt, hcut]
  · simp [validateFrom, h, hlt, hcut]

/-- A REGW of the PLL configuration once the latch has been seen (R197). -/
theorem validateFrom_order (hpc : pc + 3 < 4096) (h : scriptByte m pc = some 0x01)
    (hid : scriptByte m (pc + 1) = some p.regPllCfg) :
    validateFrom p m ph (fuel + 1) pc true = .reject .order pc := by
  simp [validateFrom, h, hid, show ¬ 4096 ≤ pc by omega, show ¬ 4096 ≤ pc + 3 by omega]

end Rejects

/-! ### POWER_ON (R206, R272) -/

/-- POWER_ON within its conditions is step S0 and what follows it. -/
theorem exec_powerOn {s : State} (hc : s.cont = none) (hp : s.powerAllowed = true) :
    exec .powerOn s = s.afterValidation fun t => t.accept .powerOn (powerOnBody t) := by
  change execPowerOn s = _
  rw [execPowerOn, hp, State.command_idle s _ hc]

theorem exec_powerOn_reject {s : State} {e : ErrCode} {pc : Nat} (hc : s.cont = none) (hp : s.powerAllowed = true)
    (h : s.validateAll = .reject e pc) :
    exec .powerOn s = .next { s with sp := BitVec.ofNat 16 pc, status.err := e } := by
  rw [exec_powerOn hc hp, State.afterValidation, h]
  rfl

/-- Step S0 passes where all three phases do, with the verdict of the third. -/
theorem State.validateAll_eq_ok {s : State} {pc : Nat} (h : s.validateAll = .ok pc) :
    (∃ p1, validate s.cfg s.mem .one s.ph1 = .ok p1) ∧ (∃ p2, validate s.cfg s.mem .two s.ph2 = .ok p2) ∧
      validate s.cfg s.mem .three s.ph3 = .ok pc := by
  unfold State.validateAll at h
  split at h
  · rename_i p1 h1
    split at h
    · rename_i p2 h2
      exact ⟨⟨p1, h1⟩, ⟨p2, h2⟩, h⟩
    · cases h
    · cases h
  · cases h
  · cases h

/-- Step S0 gives the rejection of the first phase that does not pass. -/
theorem State.validateAll_reject {s : State} {e : ErrCode} {pc : Nat}
    (h : validate s.cfg s.mem .one s.ph1 = .reject e pc ∨
      ((∃ p1, validate s.cfg s.mem .one s.ph1 = .ok p1) ∧
        (validate s.cfg s.mem .two s.ph2 = .reject e pc ∨
          ((∃ p2, validate s.cfg s.mem .two s.ph2 = .ok p2) ∧
            validate s.cfg s.mem .three s.ph3 = .reject e pc)))) :
    s.validateAll = .reject e pc := by
  obtain h1 | ⟨⟨p1, h1⟩, h2 | ⟨⟨p2, h2⟩, h3⟩⟩ := h
  · simp [State.validateAll, h1]
  · simp [State.validateAll, h1, h2]
  · simp [State.validateAll, h1, h2, h3]

/-- Settles O19: POWER_ON ends validation busy only if it passed, and is still the idle command it was if it did not. -/
theorem powerOnRejectedByValidation : Obligations.PowerOnRejectedByValidation := by
  refine ⟨fun s t hc hp h hb => ?starts, fun s e pc hc hp h => ?rejected⟩
  case starts =>
    rw [exec_powerOn hc hp] at h
    obtain ⟨pc, hv, -⟩ | ⟨e, pc, -, rfl⟩ := State.afterValidation_cases h
    · obtain ⟨h1, h2, h3⟩ := State.validateAll_eq_ok hv
      exact ⟨h1, h2, pc, h3⟩
    · simp [State.busy, hc] at hb
  case rejected =>
    refine ⟨_, exec_powerOn_reject hc hp (State.validateAll_reject h), rfl, by simp [State.busy, hc], ?_⟩
    simp only [State.powerAllowed, Bool.and_eq_true, beq_iff_eq, Bool.not_eq_true'] at hp
    obtain ⟨⟨-, hps⟩, hab⟩ := hp
    exact ⟨hps, hab⟩

theorem any_latchesPll_of_mem {p : Params} {v : Half} {is : List Instr} (h : .regw p.regPllCtrl v ∈ is) :
    is.any (latchesPll p) = true :=
  List.any_eq_true.mpr ⟨_, h, beq_self_eq_true _⟩

/-- Settles O20: the walk over the legal instructions, and one round more. -/
theorem illegalScriptInstructionsAreRejected : Obligations.IllegalScriptInstructionsAreRejected := by
  refine ⟨fun s ph ptr is pc hl hpc => ?walk, fun s op hc hp hlt hop h5 => ?reserved⟩
  case walk =>
    obtain ⟨fuel, he⟩ := State.validate_legalUpTo hl
    rw [he, ← hpc]
    refine ⟨validateFrom_pastEnd, fun op hlt hop hi => validateFrom_illegal hlt hop hi, fun v hlt hop hid hv => ?_⟩
    rw [any_latchesPll_of_mem hv, validateFrom_order hlt hop hid]
  case reserved =>
    have h1 : validate s.cfg s.mem .one s.ph1 = .reject .script s.ph1.toNat := validateFrom_reserved hlt hop h5
    rw [exec_powerOn_reject hc hp (State.validateAll_reject (.inl h1)), BitVec.ofNat_toNat, BitVec.setWidth_eq]
    exact ⟨rfl, by rw [exec, execReservedScript]; simp [State.reject, hc]⟩

/-! ### The PLL order of a phase that passes (R197) -/

/-- Instructions in PLL order, without the PLL configuration if the latch has been seen before them. -/
def pllOrderedAfter (p : Params) (latch : Bool) (is : List Instr) : Prop :=
  pllOrdered p is ∧ (latch = true → ∀ u, .regw p.regPllCfg u ∉ is)

theorem pllOrderedAfter_cons {p : Params} {latch : Bool} {i : Instr} {is : List Instr}
    (hi : ∀ u, i = .regw p.regPllCfg u → latch = false)
    (h : pllOrderedAfter p (latch || latchesPll p i) is) : pllOrderedAfter p latch (i :: is) := by
  obtain ⟨hordered, habsent⟩ := h
  refine ⟨fun before after v he u => ?_, fun hl u hu => ?_⟩
  · cases before with
    | nil =>
      obtain ⟨rfl, rfl⟩ := List.cons.inj he
      exact habsent (by simp [latchesPll]) u
    | cons j before => exact hordered before after v (List.cons.inj he).2 u
  · obtain rfl | hu := List.mem_cons.mp hu
    · exact absurd (hi u rfl) (by simp [hl])
    · exact habsent (by simp [hl]) u hu

theorem pllOrderedAfter_endPhase (p : Params) (latch : Bool) : pllOrderedAfter p latch [.endPhase] :=
  pllOrderedAfter_cons nofun ⟨by simp [pllOrdered], by simp⟩

/-- A round of validation that goes on, seen from the listing. -/
theorem State.listing_pllOrderedAfter {s : State} {ph : Phase} {fuel a : Nat} {latch : Bool} {i : Instr}
    (hold : s.holdsAt a i) (hi : inBody ph i) (hpll : ∀ u, i = .regw s.cfg.regPllCfg u → latch = false)
    (h : pllOrderedAfter s.cfg (latch || latchesPll s.cfg i) (s.listing fuel (a + scriptLengthOf i))) :
    pllOrderedAfter s.cfg latch (s.listing (fuel + 1) a) := by
  rw [State.listing_inBody hi hold]
  exact pllOrderedAfter_cons hpll h

/-- The same for a round over another instruction than REGW, which leaves the latch as it was. -/
theorem State.listing_pllOrderedAfter_of_ne_regw {s : State} {ph : Phase} {fuel a : Nat} {latch : Bool} {i : Instr}
    (hold : s.holdsAt a i) (hi : inBody ph i) (hr : ∀ id v, i ≠ .regw id v)
    (h : pllOrderedAfter s.cfg latch (s.listing fuel (a + scriptLengthOf i))) :
    pllOrderedAfter s.cfg latch (s.listing (fuel + 1) a) := by
  have hlatch : latchesPll s.cfg i = false := by
    cases i with
    | regw id v => exact absurd rfl (hr id v)
    | _ => rfl
  exact State.listing_pllOrderedAfter hold hi (fun u hu => absurd hu (hr _ u)) (by rwa [hlatch, Bool.or_false])

/-- The listing of a phase that passes is in PLL order: by the rounds of validation that do not reject. -/
theorem State.pllOrderedAfter_of_validateFrom {s : State} {ph : Phase} {fuel a pc : Nat} {latch : Bool}
    (h : validateFrom s.cfg s.mem ph fuel a latch = .ok pc) : pllOrderedAfter s.cfg latch (s.listing fuel a) := by
  have opcode {a k : Nat} {op : Byte} (hop : scriptByte s.mem a = some op) (hk : op.toNat = k) :
      scriptByte s.mem a = some (BitVec.ofNat 8 k) := by
    rw [hop, (BitVec.toNat_eq_nat.mp hk).2]
  fun_induction validateFrom s.cfg s.mem ph fuel a latch
  case case4 fuel a latch hlt op hop hk =>
    rw [State.listing_endPhase (State.holdsAt_endPhase (Nat.lt_of_not_le hlt) (opcode hop hk))]
    exact pllOrderedAfter_endPhase _ _
  case case8 fuel a latch hlt op hop hk hfit id hid horder ih =>
    refine State.listing_pllOrderedAfter (ph := ph)
      (State.holdsAt_regw (Nat.lt_of_not_le hfit) (opcode hop hk) hid) trivial ?_ (ih h)
    rintro u ⟨⟩
    exact Bool.eq_false_iff.mpr fun hl => horder ⟨rfl, by simp [hl]⟩
  case case14 fuel a latch hlt op hop hk hph hcut n hn h0 hfit ih =>
    have hfit : a + 2 + n.toNat ≤ 4096 := by
      have : ¬ 4096 ≤ a + 1 + n.toNat := hfit
      omega
    have body := (State.PassRound.pkt (Decidable.of_not_not hph) h0 hfit h).legal.resolve_left nofun
    refine State.listing_pllOrderedAfter_of_ne_regw (State.holdsAt_pkt hfit (opcode hop hk) hn h0) body nofun ?_
    rw [scriptLengthOf, s.length_scriptFrom _ hfit, ← Nat.add_assoc]
    exact ih h
  case case16 fuel a latch hlt op hop hk hfit ih =>
    exact State.listing_pllOrderedAfter_of_ne_regw (ph := ph)
      (State.holdsAt_delayMs (Nat.lt_of_not_le hfit) (opcode hop hk)) trivial nofun (ih h)
  case case18 fuel a latch hlt op hop hk hfit ih =>
    exact State.listing_pllOrderedAfter_of_ne_regw (ph := ph)
      (State.holdsAt_delayUs (Nat.lt_of_not_le hfit) (opcode hop hk)) trivial nofun (ih h)
  all_goals cases h

/-- Settles O21: before a phase no latch has been seen. -/
theorem validatedPhaseIsPllOrdered : Obligations.ValidatedPhaseIsPllOrdered :=
  fun _ _ _ _ h => (State.pllOrderedAfter_of_validateFrom h).1

end Sys2Proof.Machine

/-! ## Proofs: POWER_ON to DisplayOn (O45)

The body of POWER_ON is S1 to S3, the three phases, and the backlight. A phase that passes validation is run by
induction on the rounds of validation, which go over the instructions that the fetches give
(`State.validateFrom_ok`). -/

namespace Sys2Proof.Machine

/-! ### The instructions of a phase (R180 to R185) -/

/-- The state after instructions of the script that lead to pc = a: their events, their last levels, and 29 fallible
calls for each wire word. -/
def State.ran (s : State) (is : List Instr) (a : Half) : State :=
  { s with
    sp := a
    trace := s.trace ++ is.flatMap (instrEvents s.cfg)
    lvl := s.lvl.afterWords s.cfg (is.flatMap (instrWords s.cfg))
    env := s.env.afterCalls (29 * (is.flatMap (instrWords s.cfg)).length) }

theorem State.ran_ran (s : State) (is js : List Instr) (a b : Half) : (s.ran is a).ran js b = s.ran (is ++ js) b := by
  simp [State.ran, Levels.afterWords, Env.afterCalls_afterCalls, Nat.mul_add]

/-- More instructions after a write of PSTATE. -/
theorem State.ran_reached (s : State) (p q : PowerState) (is js : List Instr) (a b : Half) :
    State.ran { State.ran { s with status.pstate := p } is a with status.pstate := q } js b =
      State.ran { s with status.pstate := q } (is ++ js) b :=
  State.ran_ran { s with status.pstate := q } is js a b

theorem State.ran_endPhase (s : State) : s.ran [.endPhase] s.sp = s := by
  simp [State.ran, instrEvents, instrWords, instrWaits, wordEvents, Levels.afterWords, Env.afterCalls]

theorem State.ran_words (s : State) {i : Instr} (a : Half) (h : instrWaits i = []) :
    s.ran [i] a = { s.sent (instrWords s.cfg i) with sp := a } := by
  simp [State.ran, State.sent, instrEvents, h]

theorem State.ran_waits (s : State) {i : Instr} (a : Half) (h : instrWords s.cfg i = []) :
    s.ran [i] a = { s with sp := a, trace := s.trace ++ instrWaits i } := by
  simp [State.ran, instrEvents, h, wordEvents, Levels.afterWords, Env.afterCalls]

/-- The listing depends on the buffers alone. -/
theorem State.listing_congr {s t : State} (hm : t.mem = s.mem) (he : t.epoch = s.epoch) (fuel a : Nat) :
    t.listing fuel a = s.listing fuel a := by
  induction fuel generalizing a with
  | zero => rfl
  | succ fuel ih => simp only [State.listing, State.scriptFrom_congr hm he, ih]

theorem State.phaseListing_congr {s t : State} (hm : t.mem = s.mem) (he : t.epoch = s.epoch) (ptr : Half) :
    t.phaseListing ptr = s.phaseListing ptr :=
  State.listing_congr hm he _ _

theorem State.phaseListing_ran (s : State) (p : PowerState) (is : List Instr) (a ptr : Half) :
    (State.ran { s with status.pstate := p } is a).phaseListing ptr = s.phaseListing ptr :=
  State.phaseListing_congr (s := s) (t := State.ran { s with status.pstate := p } is a) rfl rfl ptr

section Phase

variable {s : State} {c : Cont} {rest : List Op} {ph : Phase} (hh : s.host = []) (hx : c.xfer = none)

include hh hx

/-- An instruction of a phase's body, run to its end. -/
theorem runSteps_inBody {i : Instr} (hp : c.phase = some ph) (hi : inBody ph i) (hf : s.fetchScript ph = .ok i)
    (hg : s.env.grants (29 * (instrWords s.cfg i).length)) :
    runSteps (instrSteps s.cfg i) (s.running c (.script :: rest)) =
      .next ((s.ran [i] (s.sp + BitVec.ofNat 16 (scriptLengthOf i))).running c (.script :: rest)) := by
  cases i with
  | regw id value =>
    rw [s.ran_words _ rfl]
    exact runSteps_wordsInstr hh hx hp hf (fun u _ => exec_regw id value u) hg
  | pkt payload =>
    rw [s.ran_words _ rfl]
    exact runSteps_wordsInstr hh hx hp hf (fun u hu => hu ▸ exec_pkt payload u) hg
  | delayMs count =>
    rw [s.ran_waits _ rfl]
    exact runSteps_delayInstr hh hx hp hf (exec_delayMs count)
  | delayUs count =>
    rw [s.ran_waits _ rfl]
    exact runSteps_delayInstr hh hx hp hf (exec_delayUs count)
  | _ => exact hi.elim

/-- The loop of RunPhase runs the instructions of a listing that passes validation, up to its END. -/
theorem runSteps_script {fuel pc : Nat} {latch : Bool} {is : List Instr} (hp : c.phase = some ph)
    (hpass : validateFrom s.cfg s.mem ph fuel s.sp.toNat latch = .ok pc) (hl : s.listing fuel s.sp.toNat = is)
    (hg : s.env.grants (29 * (is.flatMap (instrWords s.cfg)).length)) :
    runSteps (is.map (instrSteps s.cfg)).sum (s.running c (.script :: rest)) =
      .next ((s.ran is (BitVec.ofNat 16 pc)).running { c with phase := none } rest) := by
  induction fuel generalizing s is latch with
  | zero => cases hpass
  | succ fuel ih =>
    obtain ⟨ha, rounds, i, hf, hold, hr⟩ := State.validateFrom_ok hpass
    cases hf
    have hfetch : s.fetchScript ph = .ok i := State.fetchScript_of_holdsAt rfl rfl rfl hr.legal hold
    cases hr with
    | ends hpc =>
      rw [State.listing_endPhase hold] at hl
      subst hl hpc
      rw [BitVec.ofNat_toNat, BitVec.setWidth_eq, s.ran_endPhase]
      exact runSteps_one (step_endPhase hh hx hp hfetch)
    | goesOn latch' hi hfit hpass' =>
      rw [State.listing_inBody hi hold] at hl
      have hsp : (s.sp + BitVec.ofNat 16 (scriptLengthOf i)).toNat = s.sp.toNat + scriptLengthOf i := by
        rw [BitVec.toNat_add, BitVec.toNat_ofNat]
        omega
      rw [← hsp] at hl hpass'
      generalize hjs : s.listing fuel _ = js at hl
      subst hl
      rw [List.flatMap_cons, List.length_append, Nat.mul_add] at hg
      obtain ⟨hg, hgs⟩ := Env.grants_add hg
      have first := runSteps_inBody (rest := rest) hh hx hp hi hfetch hg
      have calls : (s.ran [i] (s.sp + BitVec.ofNat 16 (scriptLengthOf i))).env =
          s.env.afterCalls (29 * (instrWords s.cfg i).length) := by simp [State.ran]
      have others := ih (s := s.ran [i] (s.sp + BitVec.ofNat 16 (scriptLengthOf i))) hh hpass'
        ((State.listing_congr (s := s) (t := s.ran _ _) rfl rfl fuel _).trans hjs) (calls ▸ hgs)
      exact (runSteps_add _ _ first).trans (others.trans (by rw [State.ran_ran, List.singleton_append]))

/-- RunPhase of a phase that passes validation (R180). -/
theorem runSteps_runPhase {ptr : Half} {pc : Nat} {is : List Instr} (hpass : validate s.cfg s.mem ph ptr = .ok pc)
    (hl : s.phaseListing ptr = is) (hg : s.env.grants (29 * (is.flatMap (instrWords s.cfg)).length)) :
    runSteps (1 + (is.map (instrSteps s.cfg)).sum) (s.running c (.runPhase ph ptr :: rest)) =
      .next ((s.ran is (BitVec.ofNat 16 pc)).running { c with phase := none } rest) := by
  have listing := (State.phaseListing_congr (s := s) (t := { s with sp := ptr }) rfl rfl ptr).trans hl
  exact (runSteps_add 1 _ (runSteps_one (step_runPhase hh hx ph ptr))).trans
    (runSteps_script (s := { s with sp := ptr }) (c := { c with phase := some ph }) hh hx rfl hpass listing hg)

/-- A phase and the power state it reaches (R210, R211). -/
theorem runSteps_phaseTo {ptr : Half} {pc : Nat} {is : List Instr} (p : PowerState)
    (hpass : validate s.cfg s.mem ph ptr = .ok pc) (hl : s.phaseListing ptr = is)
    (hg : s.env.grants (29 * (is.flatMap (instrWords s.cfg)).length)) :
    runSteps (2 + (is.map (instrSteps s.cfg)).sum) (s.running c (.runPhase ph ptr :: .setPState p :: rest)) =
      .next ((State.ran { s with status.pstate := p } is (BitVec.ofNat 16 pc)).running { c with phase := none }
        rest) := by
  have reach := step_setPState (s := s.ran is (BitVec.ofNat 16 pc)) (c := { c with phase := none }) (rest := rest)
    hh hx p
  exact runSteps_trans (1 + (is.map (instrSteps s.cfg)).sum) 1 (by omega) (runSteps_runPhase hh hx hpass hl hg)
    (runSteps_one reach)

end Phase

/-! ### Steps S1 to S3 (R207 to R209) -/

/-- The statements of S1 to S3 before others, as POWER_ON's body holds them. -/
def preludeOps (s : State) (rest : List Op) : List Op :=
  .prim (.setLine .en true) :: (s.tEn.ops ++ .setPState .enableAsserted ::
    ((railsOf s.nrails).map (fun k => Op.prim (.railOn k)) ++ .setPState .regulatorsOn ::
      .prim (.setLine .rst false) :: (s.tRstLo.ops ++ .setPState .resetAsserted ::
        .prim (.setLine .rst true) :: (s.tRstHi.ops ++ .setPState .resetReleased :: rest))))

theorem DelayReg.steps_eq (r : DelayReg) : r.steps = r.events.length := by
  unfold DelayReg.steps DelayReg.events
  split <;> rfl

/-- The rails of R41 are 0 to NRAILS-1, in order. -/
theorem railsOf_val (n : BitVec 3) : (railsOf n).map Fin.val = List.range n.toNat := by
  decide +revert

theorem length_railsOf (n : BitVec 3) : (railsOf n).length = n.toNat := by
  rw [← List.length_map Fin.val, railsOf_val, List.length_range]

/-- The state after calls of POWER_ON outside its phases: the power state reached, the events, the levels, and the
number of fallible calls. -/
def State.powered (s : State) (p : PowerState) (es : List Event) (v : Levels) (n : Nat) : State :=
  { s with status.pstate := p, trace := s.trace ++ es, lvl := v, env := s.env.afterCalls n }

section Prelude

variable {s : State} {c : Cont} {rest : List Op} (hh : s.host = []) (hx : c.xfer = none)

include hh hx

/-- A line is driven, a profile's delay waited for, and a power state reached (R207, R209). -/
theorem runSteps_lineDelay {l : Line} {v : Bool} {r : DelayReg} {p : PowerState} (ha : s.env.answer = true) :
    runSteps (2 + r.steps) (s.running c (.prim (.setLine l v) :: (r.ops ++ .setPState p :: rest))) =
      .next ((s.powered p (.line l v :: r.events) (s.lvl.set l (Level.ofBool v)) 1).running c rest) := by
  have drive := runSteps_one (step_grantedCall (rest := r.ops ++ .setPState p :: rest) hh hx
    (p := .setLine l v) rfl ha)
  have delay := runSteps_delay (s := s.countCall.succeed (.setLine l v)) (rest := .setPState p :: rest) (by simpa) hx
    r.count (if r.unit then .us else .ms)
  have reach := runSteps_one (step_setPState (s := { s.countCall.succeed (.setLine l v) with
    trace := s.trace ++ [.line l v] ++ r.events }) (rest := rest) (by simpa) hx p)
  rw [DelayReg.steps_eq]
  refine runSteps_trans 1 (r.events.length + 1) (by omega) drive (runSteps_trans r.events.length 1 rfl delay
    (reach.trans ?_))
  simp [State.powered, State.succeed, Env.afterCalls]

/-- The rails of a list are enabled in order (R208). -/
theorem runSteps_rails {ks : List (Fin 7)} (hg : s.env.grants ks.length) :
    runSteps ks.length (s.running c (ks.map (fun k => Op.prim (.railOn k)) ++ rest)) =
      .next ((s.powered s.status.pstate (ks.map .rail) s.lvl ks.length).running c rest) := by
  induction ks generalizing s with
  | nil => simp [State.powered, Env.afterCalls]
  | cons k ks ih =>
    obtain ⟨ha, hg⟩ := Env.grants_succ hg
    rw [List.length_cons, List.map_cons, List.cons_append,
      runSteps_succ _ (step_grantedCall hh hx (p := .railOn k) rfl ha)]
    refine (ih (s := s.countCall.succeed (.railOn k)) hh hg).trans ?_
    simp [State.powered, State.succeed, Env.afterCalls, Nat.add_assoc, Nat.add_comm]

/-- S1 to S3, each call granted (R207 to R209). -/
theorem runSteps_prelude (hg : s.env.grants (3 + s.nrails.toNat)) :
    runSteps s.preludeSteps (s.running c (preludeOps s rest)) =
      .next ((s.powered .resetReleased s.preludeEvents { s.lvl with en := .one, rst := .one }
        (3 + s.nrails.toNat)).running c rest) := by
  rw [← length_railsOf] at hg
  have steps : s.preludeSteps = (2 + s.tEn.steps) + ((railsOf s.nrails).length +
      (1 + ((2 + s.tRstLo.steps) + (2 + s.tRstHi.steps)))) := by
    rw [State.preludeSteps, length_railsOf]
    omega
  have answer (n : Nat) (h : n < 3 + (railsOf s.nrails).length) : (s.env.afterCalls n).answer = true :=
    (s.env.answerAt_afterCalls n 0).trans (hg n h)
  have rails : (s.env.afterCalls 1).grants (railsOf s.nrails).length :=
    Env.grants_afterCalls (Env.grants_mono hg (by omega))
  rw [steps]
  refine (runSteps_add _ _ (runSteps_lineDelay hh hx (answer 0 (by omega)))).trans ?_
  refine (runSteps_add _ _ (runSteps_rails (by exact hh) hx rails)).trans ?_
  refine (runSteps_add _ _ (runSteps_one (step_setPState (by exact hh) hx .regulatorsOn))).trans ?_
  refine (runSteps_add _ _ (runSteps_lineDelay (by exact hh) hx ?resetLow)).trans ?_
  case resetLow =>
    simpa [State.powered, Env.afterCalls_afterCalls] using answer (1 + (railsOf s.nrails).length) (by omega)
  refine (runSteps_lineDelay (by exact hh) hx ?resetHigh).trans ?_
  case resetHigh =>
    simpa [State.powered, Env.afterCalls_afterCalls] using answer (1 + (railsOf s.nrails).length + 1) (by omega)
  have calls : 1 + s.nrails.toNat + 1 + 1 = 3 + s.nrails.toNat := by omega
  simp [State.powered, State.preludeEvents, Env.afterCalls_afterCalls, length_railsOf, Levels.set, Level.ofBool, calls]

end Prelude

/-! ### POWER_ON (R200, R210 to R212, R240) -/

/-- The statements of S4 to S6, as POWER_ON's body holds them. -/
def phaseOps (s : State) : List Op :=
  [.runPhase .one s.ph1, .setPState .bridgeConfigured, .runPhase .two s.ph2, .setPState .panelScripted,
    .runPhase .three s.ph3, .prim .blEnable, .prim (.blSet s.bright), .setPState .displayOn]

theorem powerOnBody_eq (s : State) : powerOnBody s = preludeOps s (phaseOps s) := rfl

/-- The listings of the phases depend on the buffers and the pointers alone. -/
theorem State.scriptListing_congr {s t : State} (hm : t.mem = s.mem) (he : t.epoch = s.epoch) (h1 : t.ph1 = s.ph1)
    (h2 : t.ph2 = s.ph2) (h3 : t.ph3 = s.ph3) : t.scriptListing = s.scriptListing := by
  simp only [State.scriptListing, State.phaseListing_congr hm he, h1, h2, h3]

theorem State.scriptListing_powered (s : State) (p : PowerState) (es : List Event) (v : Levels) (n : Nat) :
    (s.powered p es v n).scriptListing = s.scriptListing :=
  State.scriptListing_congr (s := s) (t := s.powered p es v n) rfl rfl rfl rfl rfl

/-- The three phases and the backlight, of phases that pass validation and calls that are granted. -/
theorem runSteps_phases {s : State} {c : Cont} {pc : Nat} {is : List Instr} (hh : s.host = []) (hx : c.xfer = none)
    (hv : s.validateAll = .ok pc) (hl : s.scriptListing = is)
    (hg : s.env.grants (29 * (is.flatMap (instrWords s.cfg)).length + 2)) :
    runSteps (8 + (is.map (instrSteps s.cfg)).sum) (s.running c (phaseOps s)) =
      .next (((s.ran is (BitVec.ofNat 16 pc)).powered .displayOn [.blEnable, .blSet s.bright]
        (s.ran is (BitVec.ofNat 16 pc)).lvl 2).running { c with phase := none } []) := by
  obtain ⟨⟨p1, h1⟩, ⟨p2, h2⟩, h3⟩ := State.validateAll_eq_ok hv
  subst hl
  rw [State.scriptListing] at hg ⊢
  generalize hl1 : s.phaseListing s.ph1 = l1 at hg ⊢
  generalize hl2 : s.phaseListing s.ph2 = l2 at hg ⊢
  generalize hl3 : s.phaseListing s.ph3 = l3 at hg ⊢
  simp only [List.flatMap_append, List.length_append, Nat.mul_add, Nat.add_assoc] at hg
  have steps : 8 + ((l1 ++ l2 ++ l3).map (instrSteps s.cfg)).sum = (2 + (l1.map (instrSteps s.cfg)).sum) +
      ((2 + (l2.map (instrSteps s.cfg)).sum) + ((1 + (l3.map (instrSteps s.cfg)).sum) + 3)) := by
    simp only [List.map_append, List.sum_append]
    omega
  obtain ⟨hg1, hg⟩ := Env.grants_add hg
  obtain ⟨hg2, hg⟩ := Env.grants_add hg
  rw [Env.afterCalls_afterCalls, ← Nat.mul_add, ← List.length_append, ← List.flatMap_append] at hg
  obtain ⟨hg3, hg⟩ := Env.grants_add hg
  rw [Env.afterCalls_afterCalls, ← Nat.mul_add, ← List.length_append, ← List.flatMap_append] at hg
  rw [steps, phaseOps]
  refine (runSteps_add _ _ (runSteps_phaseTo hh hx .bridgeConfigured h1 hl1 hg1)).trans ?_
  refine (runSteps_add _ _ (runSteps_phaseTo (s := State.ran { s with status.pstate := .bridgeConfigured } l1 _)
    (c := { c with phase := none }) hh hx .panelScripted h2 ((s.phaseListing_ran _ _ _ _).trans hl2) hg2)).trans ?_
  rw [State.ran_reached]
  refine (runSteps_add _ _ (runSteps_runPhase (s := State.ran { s with status.pstate := .panelScripted } (l1 ++ l2) _)
    (c := { c with phase := none }) hh hx h3 ((s.phaseListing_ran _ _ _ _).trans hl3) hg3)).trans ?_
  rw [State.ran_ran]
  exact runSteps_backlight (s := State.ran { s with status.pstate := .panelScripted } (l1 ++ l2 ++ l3) _)
    (c := { c with phase := none }) hh hx hg

/-- A word whose OPC is POWER_ON's (R110). -/
theorem decodeHost_powerOn {d : Word} (hd : d.extractLsb' 0 8 = 0x30#8) : decodeHost d = .powerOn := by
  rw [decodeHost, opcOf, hd]
  rfl

theorem step_complete {s : State} {c : Cont} (hh : s.host = []) (hx : c.xfer = none) :
    step (s.running c []) = .next { s with status.lc := c.cmd.lifecycle s.status.lc, cont := none } :=
  step_statement (c := { c with ops := [] }) hh rfl hx

/-- The state in which the body of an accepted POWER_ON begins. -/
def State.poweringOn (s : State) (pc : Nat) : State :=
  { s with host := [], sp := BitVec.ofNat 16 pc, status.err := .ok }

/-- POWER_ON is accepted when its phases pass, and its body is to run (R230, R240). -/
theorem step_powerOn {s : State} {d : Word} {pc : Nat} (hdue : s.host = [⟨0, .write 0 d⟩])
    (hd : d.extractLsb' 0 8 = 0x30#8) (hc : s.cont = none) (hp : s.powerAllowed = true)
    (hv : s.validateAll = .ok pc) :
    step s = .next ((s.poweringOn pc).running ⟨.powerOn, none, [], none, s.status.err⟩ (powerOnBody s)) := by
  have hv : State.validateAll { s with host := [] } = .ok pc := hv
  rw [step_run (State.next_of_cmdWrite hdue), decodeHost_powerOn hd, exec_powerOn (by exact hc) (by exact hp),
    State.afterValidation, hv]
  rfl

/-- The body of POWER_ON, run to its last statement (R207 to R212). -/
theorem runSteps_powerOnBody {s : State} {c : Cont} {pc : Nat} {is : List Instr} (hh : s.host = []) (hx : c.xfer = none)
    (hv : s.validateAll = .ok pc) (hl : s.scriptListing = is)
    (hg : s.env.grants (3 + s.nrails.toNat + (29 * (is.flatMap (instrWords s.cfg)).length + 2))) :
    runSteps (s.preludeSteps + (8 + (is.map (instrSteps s.cfg)).sum)) (s.running c (powerOnBody s)) =
      .next (State.running { s with
        status.pstate := .displayOn
        sp := BitVec.ofNat 16 pc
        lvl := Levels.afterWords s.cfg { s.lvl with en := .one, rst := .one } (is.flatMap (instrWords s.cfg))
        trace := s.trace ++ s.preludeEvents ++ is.flatMap (instrEvents s.cfg) ++ [.blEnable, .blSet s.bright]
        env := s.env.afterCalls (3 + s.nrails.toNat + (29 * (is.flatMap (instrWords s.cfg)).length + 2)) }
        { c with phase := none } []) := by
  obtain ⟨hprelude, hphases⟩ := Env.grants_add hg
  have prelude := runSteps_prelude (rest := phaseOps s) hh hx hprelude
  have phases := runSteps_phases (c := c) (pc := pc) (s := s.powered .resetReleased s.preludeEvents
    { s.lvl with en := .one, rst := .one } (3 + s.nrails.toNat)) hh hx hv ((s.scriptListing_powered _ _ _ _).trans hl)
    hphases
  rw [powerOnBody_eq]
  refine runSteps_trans _ _ rfl prelude (phases.trans ?_)
  simp [State.powered, State.ran, Env.afterCalls_afterCalls, Nat.add_assoc]

/-! ### The number of events (R318) -/

/-- A delay waits unless its count is 0 (R14). -/
theorem length_delayEvents (count : Half) (u : TimeUnit) :
    (delayEvents count u).length = if 0 < count.toNat then 1 else 0 := by
  unfold delayEvents
  by_cases h : count = 0
  · subst h
    rfl
  · rw [if_neg h, if_pos (Nat.pos_of_ne_zero fun h0 => h (BitVec.eq_of_toNat_eq h0))]
    rfl

theorem DelayReg.length_events (r : DelayReg) : r.events.length = if 0 < r.count.toNat then 1 else 0 :=
  length_delayEvents r.count _

theorem length_instrEvents (p : Params) (i : Instr) : (instrEvents p i).length = instrEventCount i := by
  rw [instrEvents, List.length_append, length_wordEvents]
  cases i with
  | pkt payload =>
    rw [instrWords, length_packetWords, Nat.mul_comm]
    rfl
  | delayMs count => exact (Nat.zero_add _).trans (length_delayEvents count .ms)
  | delayUs count => exact (Nat.zero_add _).trans (length_delayEvents count .us)
  | _ => rfl

theorem State.length_preludeEvents (s : State) : s.preludeEvents.length =
    1 + s.tEn.events.length + s.nrails.toNat + (2 + s.tRstLo.events.length + s.tRstHi.events.length) := by
  simp [State.preludeEvents, length_railsOf]
  omega

/-- Settles O45: the CMD write is accepted, the body runs, and the command completes; the events are counted part by
part. -/
theorem powerOnReachesDisplayOn : Obligations.PowerOnReachesDisplayOn := by
  rintro s d pc is ws hdue hd hc hp hv rfl rfl hg
  refine ⟨?run, railsOf_val _, ?count⟩
  case run =>
    have calls : 5 + s.nrails.toNat + 29 * (s.scriptListing.flatMap (instrWords s.cfg)).length =
        3 + s.nrails.toNat + (29 * (s.scriptListing.flatMap (instrWords s.cfg)).length + 2) := by omega
    rw [calls] at hg ⊢
    have steps : 10 + s.preludeSteps + (s.scriptListing.map (instrSteps s.cfg)).sum =
        1 + (s.preludeSteps + (8 + (s.scriptListing.map (instrSteps s.cfg)).sum) + 1) := by omega
    have body := runSteps_powerOnBody (s := s.poweringOn pc) (c := ⟨.powerOn, none, [], none, s.status.err⟩) rfl rfl hv
      (State.scriptListing_congr (s := s) (t := s.poweringOn pc) rfl rfl rfl rfl rfl) hg
    rw [steps, hc]
    exact runSteps_trans 1 _ rfl (runSteps_one (step_powerOn hdue hd hc hp hv))
      (runSteps_trans _ 1 rfl body (runSteps_one (step_complete (by exact rfl) rfl)))
  case count =>
    simp only [List.length_append, List.length_cons, List.length_nil, State.length_preludeEvents,
      DelayReg.length_events, List.length_flatMap, length_instrEvents]

end Sys2Proof.Machine

/-! ## Proofs: the acceptance of host commands (O3, O4, O13 to O16, O18, O50)

A host command is `State.command` of its conditions and its body. Each listed command gets one equation for its
acceptance; a rejection needs only the condition that fails. -/

namespace Sys2Proof.Machine

/-! ### The checks of a command (R230, R232) -/

section Checks

variable {s t : State} {stateOk paramOk : Bool} {body : Host.Outcome State Fault Refusal}

theorem State.command_busy (hb : s.busy = true) : s.command stateOk paramOk body = .next s.markBusyViol := by
  rw [State.command, if_pos hb]

theorem State.command_badState (hb : s.busy = false) (h : stateOk = false) :
    s.command stateOk paramOk body = .next (s.reject .state) := by
  simp [State.command, hb, h]

theorem State.command_badParam (hb : s.busy = false) (h : stateOk = true) (hp : paramOk = false) :
    s.command stateOk paramOk body = .next (s.reject .param) := by
  simp [State.command, hb, h, hp]

theorem State.command_accepted (hc : s.cont = none) (h : stateOk = true) (hp : paramOk = true) :
    s.command stateOk paramOk body = body := by
  rw [h, hp, s.command_idle body hc]

/-- A command keeps SP if its body does. -/
theorem State.command_sp (hb : body = .next t → t.sp = s.sp) (h : s.command stateOk paramOk body = .next t) :
    t.sp = s.sp := by
  obtain ⟨-, he⟩ | ⟨-, -, he⟩ | ⟨-, -, -, he⟩ | ⟨-, -, -, he⟩ := s.command_cases stateOk paramOk body <;> rw [he] at h
  · cases h
    rfl
  · cases h
    rfl
  · cases h
    rfl
  · exact hb h

end Checks

/-- The state condition of the transfer commands, where it fails (R230). -/
theorem State.transferAllowed_eq_false {s : State} (h : s.status.lc ≠ .attached ∨ s.status.lineFault = true) :
    s.transferAllowed = false := by
  obtain h | h := h <;> simp [State.transferAllowed, h]

/-- The state condition of POWER_ON, where it fails (R230, R214). -/
theorem State.powerAllowed_eq_false {s : State}
    (h : s.status.lc ≠ .attached ∨ s.status.lineFault = true ∨ s.status.pstate ≠ .unpowered ∨
      s.status.aborted = true) : s.powerAllowed = false := by
  obtain h | h | h | h := h <;> simp [State.powerAllowed, State.transferAllowed, h]

theorem State.packetCountOk_iff (s : State) : s.packetCountOk = true ↔ 1 ≤ s.arg0.toNat ∧ s.arg0.toNat ≤ 256 := by
  simp [State.packetCountOk]

/-- Settles O13: for each command, the first condition that fails. -/
theorem commandsOutsideTheirConditionsAreRejected : Obligations.CommandsOutsideTheirConditionsAreRejected := by
  intro s hb
  refine ⟨fun h => ?attach, fun h => ?detach, fun h => ?transfer, fun h => ?power, fun hlc hn => ?rails,
    fun hlc hf hn => ?count⟩
  case attach => exact State.command_badState hb (beq_eq_false_iff_ne.mpr h)
  case detach => exact State.command_badState hb (beq_eq_false_iff_ne.mpr h)
  case transfer =>
    have ht := State.transferAllowed_eq_false h
    exact ⟨State.command_badState hb ht, State.command_badState hb ht, State.command_badState hb ht,
      State.command_badState hb ht, State.command_badState hb ht⟩
  case power => exact State.command_badState hb (State.powerAllowed_eq_false h)
  case rails => exact State.command_badParam hb (beq_iff_eq.mpr hlc) (by simp [hn])
  case count =>
    have hcount : s.packetCountOk = false := by
      rw [← Bool.not_eq_true, State.packetCountOk_iff]
      omega
    exact State.command_badParam hb (by simp [State.transferAllowed, hlc, hf]) hcount

/-! ### Accepted commands (R230, R233 to R240) -/

theorem exec_attach {s : State} (hc : s.cont = none) (hlc : s.status.lc = .detached) (hn : s.nrails ≠ 0) :
    exec .attach s = .next (s.accept .attach (attachBody s.nrails)) :=
  State.command_accepted hc (beq_iff_eq.mpr hlc) (bne_iff_ne.mpr hn)

theorem exec_detach {s : State} (hc : s.cont = none) (hlc : s.status.lc = .attached) :
    exec .detach s = .next (s.accept .detach (detachBody s.own)) :=
  State.command_accepted hc (beq_iff_eq.mpr hlc) rfl

section Transfers

variable {s : State} (h : s.idleAttached)

include h

theorem State.command_transfer {paramOk : Bool} {body : Host.Outcome State Fault Refusal} (hp : paramOk = true) :
    s.command s.transferAllowed paramOk body = body := by
  obtain ⟨hc, ht⟩ := h
  exact State.command_accepted hc ht hp

theorem exec_xferW9 : exec .xferW9 s = .next (s.accept .xferW9 [.w9 s.argWord]) :=
  State.command_transfer h rfl

theorem exec_xferR16 : exec .xferR16 s = .next (s.accept .xferR16 [.read16]) :=
  State.command_transfer h rfl

theorem exec_regWrite : exec .regWrite s = .next (s.accept .regWrite (writeRegister s.argId s.arg1)) :=
  State.command_transfer h rfl

theorem exec_regRead : exec .regRead s = .next (s.accept .regRead (readRegister s.cfg s.argId)) :=
  State.command_transfer h rfl

theorem exec_pktSend {bytes : List Byte} (hcount : s.packetCountOk = true)
    (hr : Mem.readMany s.mem s.arg0.toNat Config.pktBufBase = .ok bytes) :
    exec .pktSend s = .next (s.accept .pktSend (sendCommandPacket s.cfg bytes)) := by
  change execPktSend s = _
  rw [execPktSend, State.command_transfer h hcount, hr]

end Transfers

/-- POWER_ON whose phases pass is accepted with SP where validation ended. -/
theorem exec_powerOn_accept {s : State} {pc : Nat} (hc : s.cont = none) (hp : s.powerAllowed = true)
    (hv : s.validateAll = .ok pc) :
    exec .powerOn s = .next (State.accept { s with sp := BitVec.ofNat 16 pc } .powerOn (powerOnBody s)) := by
  rw [exec_powerOn hc hp, State.afterValidation, hv]
  rfl

/-- Settles O15: the acceptance of each command, with the bodies of their rules. -/
theorem transferCommandsAreAccepted : Obligations.TransferCommandsAreAccepted :=
  fun _ h => ⟨exec_xferW9 h, exec_xferR16 h, exec_regWrite h, exec_regRead h⟩

/-- Settles O18: the body is that of POWER_ON, its parts written one after another. -/
theorem powerOnIsAccepted : Obligations.PowerOnIsAccepted := by
  intro s pc hc hp hv
  rw [exec_powerOn_accept hc hp hv]
  simp [State.accept, powerOnBody]

/-! ### The handles of ATTACH and DETACH (R233, R234) -/

/-- The body of ATTACH acquires the handles of `handlesOf` in their order, then drives the bus lines idle. -/
theorem attachBody_eq (n : BitVec 3) : attachBody n = (handlesOf n).map (fun h => Op.prim (.acquire h)) ++
    [.prim (.setLine .cs true), .prim (.setLine .sck true), .prim (.setLine .sdi false)] := by
  simp [attachBody, handlesOf]

theorem mem_allHandles (h : Handle) : h ∈ allHandles := by
  cases h with
  | line l => cases l <;> decide
  | rail k => decide +revert
  | sdo | bl => decide

/-- The handles that ATTACH acquired, among all of them in order, are those of `handlesOf` in order. -/
theorem filter_allHandles (n : BitVec 3) : allHandles.filter (fun h => decide (h ∈ handlesOf n)) = handlesOf n := by
  decide +revert

theorem handlesOf_nodup (n : BitVec 3) : (handlesOf n).Nodup := by
  decide +revert

theorem detachBody_handlesOf (n : BitVec 3) :
    detachBody (handlesOf n) = (handlesOf n).map fun h => Op.prim (.release h) := by
  rw [detachBody, filter_allHandles]

/-- Settles O14: ATTACH's body by its handles; DETACH's handles are the owned ones among all. -/
theorem attachAndDetachAreAccepted : Obligations.AttachAndDetachAreAccepted := by
  refine ⟨fun s hc hlc hn => ?attach, fun s hc hlc =>
    ⟨allHandles.filter (fun h => decide (h ∈ s.own)), exec_detach hc hlc, fun h => ?mem, List.filter_sublist⟩⟩
  case attach =>
    rw [exec_attach hc hlc hn, attachBody_eq]
    rfl
  case mem => simp [mem_allHandles h]

/-! ### The packet of PKT_SEND (R239, R163) -/

/-- A range of written bytes reads as those bytes. -/
theorem Mem.readMany_written {m : Mem} {a : Nat} {bytes : List Byte}
    (h : ∀ k (hk : k < bytes.length), Mem.read m (a + k) = some bytes[k]) :
    Mem.readMany m bytes.length a = .ok bytes := by
  induction bytes generalizing a with
  | nil => rfl
  | cons b bytes ih =>
    have first : Mem.read m a = some b := h 0 (Nat.succ_pos _)
    have rest : Mem.readMany m bytes.length (a + 1) = .ok bytes := ih fun k hk => by
      rw [Nat.add_assoc, Nat.add_comm 1 k]
      exact h (k + 1) (Nat.succ_lt_succ hk)
    rw [List.length_cons, Mem.readMany, first, rest]

/-- PKT_SEND of written bytes within its conditions. -/
theorem exec_pktSend_written {s : State} {bytes : List Byte} (hs : s.idleAttached)
    (hlen : bytes.length = s.arg0.toNat) (h1 : 1 ≤ s.arg0.toNat) (h256 : s.arg0.toNat ≤ 256)
    (hw : ∀ k (h : k < bytes.length), Mem.read s.mem (0x100 + k) = some bytes[k]) :
    exec .pktSend s = .next (s.accept .pktSend (sendCommandPacket s.cfg bytes)) :=
  exec_pktSend hs (s.packetCountOk_iff.mpr ⟨h1, h256⟩) (hlen ▸ Mem.readMany_written hw)

/-- Settles O16: the packet is read whole, and its length is ARG0. -/
theorem pktSendIsAccepted : Obligations.PktSendIsAccepted := by
  intro s bytes hs hlen h1 h256 hw
  rw [exec_pktSend_written hs hlen h1 h256 hw, sendCommandPacket, hlen, BitVec.ofNat_toNat, BitVec.setWidth_eq]
  rfl

/-! ### What a host command leaves unchanged (R233 to R240, R272) -/

/-- PKT_SEND keeps SP, or has no next state. -/
theorem execPktSend_sp {s t : State} (h : execPktSend s = .next t) : t.sp = s.sp := by
  refine State.command_sp (fun hb => ?_) h
  split at hb <;> cases hb
  rfl

/-- The instructions that a word written to CMD stands for: the listed codes and the reserved ones (R110, R112). -/
def isHostCommand (i : Instr) : Prop :=
  i ∈ [.attach, .detach, .xferW9, .xferR16, .regWrite, .regRead, .pktSend, .powerOn] ∨ ∃ opc, i = .reservedHost opc

/-- A host command does one of the three things of `State.commandResult`, and only POWER_ON writes SP. -/
theorem exec_hostCommand_result {i : Instr} {s t : State} (hi : isHostCommand i) (h : exec i s = .next t) :
    s.commandResult t ∧ (i ≠ .powerOn → t.sp = s.sp) := by
  have keeps {cmd : Command} {body : List Op} {a b : Bool} (h : s.command a b (.next (s.accept cmd body)) = .next t) :
      t.sp = s.sp := State.command_sp (fun hb => by cases hb; rfl) h
  cases i with
  | attach => exact ⟨execAttach_result h, fun _ => keeps h⟩
  | detach => exact ⟨execDetach_result h, fun _ => keeps h⟩
  | xferW9 => exact ⟨execXferW9_result h, fun _ => keeps h⟩
  | xferR16 => exact ⟨execXferR16_result h, fun _ => keeps h⟩
  | regWrite => exact ⟨execRegWrite_result h, fun _ => keeps h⟩
  | regRead => exact ⟨execRegRead_result h, fun _ => keeps h⟩
  | pktSend => exact ⟨execPktSend_result h, fun _ => execPktSend_sp h⟩
  | powerOn => exact ⟨execPowerOn_result h, fun hn => absurd rfl hn⟩
  | reservedHost opc =>
    refine ⟨execReservedHost_result (opc := opc) h, fun _ => ?_⟩
    change execReservedHost opc s = _ at h
    unfold execReservedHost at h
    split at h <;> cases h <;> rfl
  | _ => simp [isHostCommand] at hi

/-- Settles O50: the three things a host command can do, each within the frame. -/
theorem hostCommandFrame : Obligations.HostCommandFrame := by
  intro i s t hi h
  obtain ⟨hr, hsp⟩ := exec_hostCommand_result hi h
  obtain ⟨-, rfl⟩ | ⟨-, e, sp, rfl⟩ | ⟨-, cmd, body, sp, -, rfl⟩ := hr <;>
    exact ⟨rfl, hsp, fun _ => rfl, fun _ => rfl⟩

/-! ### Host reads (R231, R76) -/

theorem State.hostRead_rdata (s : State) : s.hostRead 0x010 = s.rdata.setWidth 32 := s.hostRead_reg (r := .rdata) rfl

theorem State.hostRead_rraw (s : State) : s.hostRead 0x014 = s.rraw.setWidth 32 := s.hostRead_reg (r := .rraw) rfl

/-- Settles O4: the read is the step that is due, and the four offsets name their registers. -/
theorem hostReadHasNoSideEffect : Obligations.HostReadHasNoSideEffect := by
  refine ⟨fun s off rest ha hd => step_goto ?_, fun s => ⟨s.hostRead_reg (r := .cmd) rfl,
    s.hostRead_rdata, s.hostRead_rraw, s.hostRead_reg (r := .sp) rfl⟩⟩
  rw [State.next_of_due hd, State.hostNext, if_pos ha]

/-! ### Busy writes (R232) -/

/-- A word written to CMD while a command is in progress is ignored. -/
theorem exec_decodeHost_busy {s : State} (d : Word) (hb : s.busy = true) :
    exec (decodeHost d) s = .next s.markBusyViol := by
  unfold decodeHost
  split
  case h_9 => exact if_pos hb
  all_goals exact State.command_busy hb

theorem step_busyWrite {s : State} {off : Offset} {d : Word} {rest : List HostSlot} (hb : s.busy = true)
    (ha : alignedOffset off = true) (hd : s.due (.write off d) rest) :
    step s = .next (State.markBusyViol { s with host := rest }) := by
  by_cases h0 : off = 0
  · subst h0
    rw [step_run (State.next_of_cmdWrite hd), exec_decodeHost_busy (s := { s with host := rest }) d hb]
  · rw [step_hostWrite ha h0 hd, State.hostWrite_busy { s with host := rest } off d hb]

/-! ### What a step leaves to read while a command is in progress (R232) -/

/-- RDATA, RRAW and ERR read in `t` as they read in `s`. -/
structure State.sameResults (s t : State) : Prop where
  err : t.errRead = s.errRead
  rdata : t.rdata = s.rdata
  rraw : t.rraw = s.rraw

theorem State.errRead_idle {s : State} (hc : s.cont = none) : s.errRead = s.status.err := by
  rw [State.errRead, hc]

theorem State.errRead_running {s : State} {c : Cont} (hc : s.cont = some c) : s.errRead = c.errBefore := by
  rw [State.errRead, hc]

/-- A command that goes on keeps the ERR from before it. -/
theorem State.sameResults_goesOn {s t : State} {c c' : Cont} (hc : s.cont = some c) (ht : t.cont = some c')
    (he : c'.errBefore = c.errBefore) (hd : t.rdata = s.rdata) (hr : t.rraw = s.rraw) : s.sameResults t :=
  ⟨by rw [State.errRead_running hc, State.errRead_running ht, he], hd, hr⟩

/-- A step that ends no command, if it leaves ERR alone. -/
theorem State.sameResults_congr {s t : State} (hc : t.cont = s.cont) (he : t.status.err = s.status.err)
    (hd : t.rdata = s.rdata) (hr : t.rraw = s.rraw) : s.sameResults t :=
  ⟨by simp only [State.errRead, hc, he], hd, hr⟩

theorem Cont.afterCall_errBefore (c : Cont) (x : Xfer) (b : Bool) : (c.afterCall x b).errBefore = c.errBefore := by
  unfold Cont.afterCall
  split <;> rfl

/-- A collaborator call of the command in progress: the command goes on, or it ends (R13, R274). -/
theorem State.call_sameResults {s : State} {c c' : Cont} (p : Prim) (hc : s.cont = some c)
    (he : c'.errBefore = c.errBefore) :
    (s.call p fun u => { u with cont := some c' }).cont = none ∨
      s.sameResults (s.call p fun u => { u with cont := some c' }) := by
  obtain ⟨-, h⟩ | ⟨-, -, h⟩ | ⟨f, -, -, h⟩ := s.call_cases p fun u => { u with cont := some c' } <;> rw [h]
  · exact .inr (State.sameResults_goesOn hc rfl he (by simp) (by simp))
  · exact .inr (State.sameResults_goesOn hc rfl he (by simp) (by simp))
  · exact .inl rfl

/-- A host command starts with the results it finds, or no command is in progress after it. -/
theorem State.commandResult_sameResults {s t : State} (h : s.commandResult t) : t.cont = none ∨ s.sameResults t := by
  obtain ⟨-, rfl⟩ | ⟨hc, e, sp, rfl⟩ | ⟨hc, cmd, body, sp, -, rfl⟩ := h
  · exact .inr (State.sameResults_congr rfl rfl rfl rfl)
  · exact .inl hc
  · exact .inr ⟨(State.errRead_idle hc).symm, rfl, rfl⟩

/-- RDATA and RRAW are read-only to the host (R38, R39). -/
theorem State.writeReg_results (s : State) (d : Word) (r : HostReg) :
    (s.writeReg d r).rdata = s.rdata ∧ (s.writeReg d r).rraw = s.rraw := by
  cases r <;> simp only [State.writeReg, and_self]
  split <;> exact ⟨rfl, rfl⟩

theorem State.hostWrite_sameResults (s : State) (off : Offset) (d : Word) : s.sameResults (s.hostWrite off d) := by
  obtain ⟨⟨v, hst, -⟩, hcont, -⟩ := s.hostWrite_controller off d
  have results : (s.hostWrite off d).rdata = s.rdata ∧ (s.hostWrite off d).rraw = s.rraw := by
    unfold State.hostWrite
    split
    · exact ⟨rfl, rfl⟩
    · split
      · exact s.writeReg_results d _
      · exact ⟨rfl, rfl⟩
      · exact ⟨rfl, rfl⟩
  obtain ⟨hrdata, hrraw⟩ := results
  exact State.sameResults_congr hcont (by rw [hst]) hrdata hrraw

/-- A fetched script instruction goes on with the command, or is a reserved opcode and ends it. -/
theorem exec_fetched_sameResults {s t : State} {ph : Phase} {i : Instr} {c : Cont} {rest : List Op}
    (hc : s.cont = some c) (hf : s.fetchScript ph = .ok i)
    (h : exec i { s with cont := some { c with ops := rest } } = .next t) : t.cont = none ∨ s.sameResults t := by
  obtain rfl | ⟨c', hc', -, rfl | ⟨stmts, n, -, rfl⟩⟩ := exec_fetched_result hf h
  · exact .inl rfl
  · cases hc'
    exact .inr (State.sameResults_goesOn hc rfl rfl rfl rfl)
  · cases hc'
    exact .inr (State.sameResults_goesOn hc rfl rfl rfl rfl)

/-- The controller writes the results only in the step that ends the command. -/
theorem State.controller_sameResults {s t : State} (h : s.controllerNext.outcome = .next t) :
    t.cont = none ∨ s.sameResults t := by
  obtain ⟨hc, rfl⟩ | ⟨c, hc, ⟨x, -, rfl⟩ | ⟨-, ⟨-, rfl⟩ | ⟨rest, hs⟩⟩⟩ := State.controller_cases h
  · exact .inl hc
  · exact State.call_sameResults _ hc (c.afterCall_errBefore x _)
  · exact .inl rfl
  · have goesOn {u : State} {c' : Cont} := State.sameResults_goesOn (t := u) (c' := c') hc
    obtain ⟨p, -, rfl⟩ | ⟨w, -, rfl⟩ | ⟨r, b, -, rfl⟩ | ⟨-, rfl⟩ | ⟨ph, ptr, -, rfl⟩ | ⟨i, ph, -, -, hf, he⟩ |
      ⟨n, -, rfl⟩ | ⟨p, -, rfl⟩ | ⟨raw, -, rfl⟩ := hs
    · exact State.call_sameResults p hc rfl
    · exact .inr (goesOn rfl rfl rfl rfl)
    · exact .inr (goesOn rfl rfl rfl rfl)
    · exact .inr (goesOn rfl rfl rfl rfl)
    · exact .inr (goesOn rfl rfl rfl rfl)
    · exact exec_fetched_sameResults hc hf he
    · exact .inr (goesOn rfl rfl rfl rfl)
    · exact .inr (goesOn rfl rfl rfl rfl)
    · exact .inl rfl

/-- Every step leaves no command in progress, or the results to read as before it. -/
theorem step_sameResults {s t : State} (h : step s = .next t) : t.cont = none ∨ s.sameResults t := by
  obtain ⟨rest, -, rfl⟩ | ⟨d, rest, -, he⟩ | ⟨off, d, rest, -, -, -, rfl⟩ | ⟨rest, w, rfl⟩ | ⟨-, hs, hc⟩ := step_cases h
  · exact .inl rfl
  · exact (State.commandResult_sameResults (exec_decodeHost_result he)).imp_right fun ⟨e, d, r⟩ => ⟨e, d, r⟩
  · obtain ⟨e, d, r⟩ := State.hostWrite_sameResults { s with host := rest } off d
    exact .inr ⟨e, d, r⟩
  · exact .inr ⟨rfl, rfl, rfl⟩
  · exact (State.controller_sameResults hc).imp_right fun ⟨e, d, r⟩ => ⟨e, d, r⟩

theorem State.statusWord_err (s : State) : s.statusWord.extractLsb' 8 4 = s.errRead.code := by
  obtain ⟨-, -, herr, -⟩ := s.statusWord_fields
  exact herr

/-- Settles O3: a busy write is one step of `State.markBusyViol`, and a step that leaves a command in progress keeps the
results. -/
theorem busyWritesAreIgnoredAndResultsReadAsBefore : Obligations.BusyWritesAreIgnoredAndResultsReadAsBefore := by
  refine ⟨fun s off d rest hb ha hd => step_busyWrite hb ha hd, fun s t h hb => ?_⟩
  obtain hc | ⟨he, hd, hr⟩ := step_sameResults h
  · simp [State.busy, hc] at hb
  · exact ⟨he, by rw [State.statusWord_err, State.statusWord_err, he],
      by rw [State.hostRead_rdata, State.hostRead_rdata, hd], by rw [State.hostRead_rraw, State.hostRead_rraw, hr]⟩

end Sys2Proof.Machine

/-! ## Proofs: host commands run to their end (O38 to O44)

A command is its CMD write, the run of its body and its last statement. Each kind of statement that the bodies hold has
its run as a lemma over the continuation, and each command puts them together. -/

namespace Sys2Proof.Machine

/-! ### From the CMD write to the body (R230) -/

/-- The row of a word written to CMD is that of its OPC (R32, R110). -/
theorem decodeHost_congr {d e : Word} (h : opcOf d = opcOf e) : decodeHost d = decodeHost e := by
  simp only [decodeHost, h]

/-- The state in which a CMD write is run: the write is taken off the host's list, which is then empty. -/
def State.written (s : State) : State := { s with host := [] }

/-- The state in which the body of an accepted command runs. -/
def State.begun (s : State) : State := { s with host := [], status.err := .ok }

/-- The continuation of an accepted command, but for its body. -/
def State.begunCont (s : State) (cmd : Command) : Cont := ⟨cmd, none, [], none, s.status.err⟩

section Command

variable {s : State} {d : Word} {i : Instr} {cmd : Command} {body : List Op} (hdue : s.host = [⟨0, .write 0 d⟩])
  (hd : decodeHost d = i) (he : exec i s.written = .next (s.written.accept cmd body))

include hdue hd he

/-- The CMD write of a command that is accepted. -/
theorem step_accepted : step s = .next (s.begun.running (s.begunCont cmd) body) := by
  rw [step_run (State.next_of_cmdWrite hdue), hd]
  exact he

/-- A command from its CMD write to its end, given the run of its body. -/
theorem runSteps_command {t : State} {k : Nat}
    (run : runSteps k (s.begun.running (s.begunCont cmd) body) = .next (t.running (s.begunCont cmd) []))
    (ht : t.host = []) :
    runSteps (1 + (k + 1)) s = .next { t with status.lc := cmd.lifecycle t.status.lc, cont := none } :=
  runSteps_trans 1 (k + 1) rfl (runSteps_one (step_accepted hdue hd he))
    (runSteps_trans k 1 rfl run (runSteps_one (step_complete ht rfl)))

end Command

/-! ### The statements of the bodies -/

section Bodies

variable {s : State} {c : Cont} {rest : List Op} (hh : s.host = []) (hx : c.xfer = none)

include hh hx

/-- Handles that are not owned yet are acquired in order (R233). -/
theorem runSteps_acquires {hs : List Handle} (hg : s.env.grants hs.length) (hnew : (s.own ++ hs).Nodup) :
    runSteps hs.length (s.running c (hs.map (fun h => Op.prim (.acquire h)) ++ rest)) =
      .next (State.running { s with
        trace := s.trace ++ hs.map .acquire
        own := s.own ++ hs
        env := s.env.afterCalls hs.length } c rest) := by
  induction hs generalizing s with
  | nil => simp [Env.afterCalls]
  | cons h hs ih =>
    obtain ⟨ha, hg⟩ := Env.grants_succ hg
    have hfresh : h ∉ s.own := fun hm => (List.disjoint_of_nodup_append hnew) hm List.mem_cons_self
    have hown : (s.countCall.succeed (.acquire h)).own = s.own ++ [h] := if_neg hfresh
    rw [List.length_cons, List.map_cons, List.cons_append,
      runSteps_succ _ (step_grantedCall hh hx (p := .acquire h) rfl ha)]
    refine (ih (s := s.countCall.succeed (.acquire h)) hh hg (by rw [hown]; simpa using hnew)).trans ?_
    rw [hown]
    simp [State.succeed, Env.afterCalls, Nat.add_assoc, Nat.add_comm 1]

/-- Lines are driven in order (R13). -/
theorem runSteps_setLines {ls : List (Line × Bool)} (hg : s.env.grants ls.length) :
    runSteps ls.length (s.running c (ls.map (fun lv => Op.prim (.setLine lv.1 lv.2)) ++ rest)) =
      .next (State.running { s with
        trace := s.trace ++ ls.map (fun lv => .line lv.1 lv.2)
        lvl := ls.foldl (fun v lv => v.set lv.1 (Level.ofBool lv.2)) s.lvl
        env := s.env.afterCalls ls.length } c rest) := by
  induction ls generalizing s with
  | nil => simp [Env.afterCalls]
  | cons lv ls ih =>
    obtain ⟨ha, hg⟩ := Env.grants_succ hg
    rw [List.length_cons, List.map_cons, List.cons_append,
      runSteps_succ _ (step_grantedCall hh hx (p := .setLine lv.1 lv.2) rfl ha)]
    refine (ih (s := s.countCall.succeed (.setLine lv.1 lv.2)) hh hg).trans ?_
    simp [State.succeed, Env.afterCalls, Nat.add_assoc, Nat.add_comm 1]

/-- Handles are released in order, without an answer from outside (R234). -/
theorem runSteps_releases (hs : List Handle) :
    runSteps hs.length (s.running c (hs.map (fun h => Op.prim (.release h)) ++ rest)) =
      .next (State.running { s with
        trace := s.trace ++ hs.map .release
        own := hs.foldl releaseHandle s.own
        lvl := hs.foldl Levels.release s.lvl } c rest) := by
  induction hs generalizing s with
  | nil => simp
  | cons h hs ih =>
    rw [List.length_cons, List.map_cons, List.cons_append,
      runSteps_succ _ (step_sureCall hh hx (p := .release h) rfl)]
    refine (ih (s := s.succeed (.release h)) hh).trans ?_
    simp [State.succeed]

/-- A raw wire word whose line calls succeed (R140, R235). -/
theorem runSteps_w9 {w : Word9} (hg : s.env.grants 29) :
    runSteps 50 (s.running c (.w9 w :: rest)) =
      .next (State.running { s with
        trace := s.trace ++ writeEvents s.cfg w
        lvl := s.lvl.afterWrite w
        env := s.env.afterCalls 29 } c rest) := by
  have start : step (s.running c (.w9 w :: rest)) =
      .next (s.running { c with xfer := some (Xfer.startWrite w) } rest) := step_running hh hx _
  obtain ⟨transfer, -⟩ := writeTransferEmitsItsEvents (s.running { c with xfer := some (Xfer.startWrite w) } rest) _ w
    hh rfl rfl hg
  rw [runSteps_succ 49 start, transfer]
  simp [State.running, hx]

/-- A read at the end of a body: its transfer, and the step that returns the value and completes (R236, R238). -/
theorem runSteps_read (hg : s.env.grants 50) :
    ∃ raw, s.env.samples raw ∧ runSteps 86 (s.running c (.read16 :: rest)) = .next { s with
      status.lc := c.cmd.lifecycle s.status.lc
      rdata := swap16 raw
      rraw := raw
      cont := none
      trace := s.trace ++ readEvents s.cfg raw
      lvl := s.lvl.afterRead
      env := { s.env with calls := s.env.calls + 50, draws := s.env.draws + 16 } } := by
  have start : step (s.running c (.read16 :: rest)) =
      .next (s.running { c with xfer := some Xfer.startRead } rest) :=
    (step_running hh hx _).trans ((exec_read16 _).trans (State.inCommand_running (s := s) _ hx))
  obtain ⟨raw, hraw, transfer, -⟩ :=
    readTransferEmitsItsEvents (s.running { c with xfer := some Xfer.startRead } rest) _ hh rfl rfl hg
  refine ⟨raw, hraw, ?_⟩
  rw [runSteps_succ 85 start]
  exact runSteps_trans 84 1 rfl transfer (runSteps_one (step_returnRead
    (c := { c with xfer := none, ops := .returnRead raw :: rest }) hh rfl rfl rfl))

end Bodies

/-! ### ATTACH and DETACH (R233, R234) -/

theorem length_handlesOf (n : BitVec 3) : (handlesOf n).length = 7 + n.toNat := by
  simp [handlesOf, length_railsOf]
  omega

/-- The lines that ATTACH drives idle after its handles (R233). -/
def idleLines : List (Line × Bool) := [(.cs, true), (.sck, true), (.sdi, false)]

/-- The body of ATTACH, run to its last statement: the handles, none of them owned before, and the idle lines. -/
theorem runSteps_attachBody {s : State} {c : Cont} (hh : s.host = []) (hx : c.xfer = none) (hown : s.own = [])
    (hg : s.env.grants ((handlesOf s.nrails).length + 3)) :
    runSteps ((handlesOf s.nrails).length + 3) (s.running c (attachBody s.nrails)) =
      .next (State.running { s with
        trace := s.trace ++ (handlesOf s.nrails).map .acquire ++
          [.line .cs true, .line .sck true, .line .sdi false]
        own := handlesOf s.nrails
        lvl := { s.lvl with cs := .one, sck := .one, sdi := .zero }
        env := s.env.afterCalls ((handlesOf s.nrails).length + 3) } c []) := by
  obtain ⟨hacquires, hlines⟩ := Env.grants_add hg
  have hnew : (s.own ++ handlesOf s.nrails).Nodup := by
    rw [hown]
    exact handlesOf_nodup _
  have acquires := runSteps_acquires (rest := idleLines.map fun lv => .prim (.setLine lv.1 lv.2)) hh hx hacquires hnew
  rw [hown, List.nil_append] at acquires
  have lines := runSteps_setLines (s := { s with
    trace := s.trace ++ (handlesOf s.nrails).map .acquire
    own := handlesOf s.nrails
    env := s.env.afterCalls (handlesOf s.nrails).length }) (c := c) (rest := []) (ls := idleLines) hh hx hlines
  rw [List.append_nil] at lines
  rw [attachBody_eq]
  refine runSteps_trans (handlesOf s.nrails).length 3 rfl acquires (lines.trans ?_)
  rw [Env.afterCalls_afterCalls]
  rfl

/-- Settles O38: the body of ATTACH between its acceptance and its completion. -/
theorem attachRuns : Obligations.AttachRuns := by
  intro s d hdue hd hc hlc hn hown hg
  refine ⟨?run, rfl, railsOf_val _⟩
  have calls : 10 + s.nrails.toNat = (handlesOf s.nrails).length + 3 := by
    rw [length_handlesOf]
    omega
  have steps : 12 + s.nrails.toNat = 1 + ((handlesOf s.nrails).length + 3 + 1) := by omega
  rw [calls] at hg ⊢
  have accepted := exec_attach (s := s.written) hc hlc hn
  rw [steps, hc]
  exact runSteps_command hdue (decodeHost_congr (e := 1) hd) accepted
    (runSteps_attachBody (s := s.begun) rfl rfl hown hg) rfl

/-- No handle of the list is owned after its release, and no other is lost. -/
theorem mem_releases (hs own : List Handle) (x : Handle) : x ∈ hs.foldl releaseHandle own ↔ x ∈ own ∧ x ∉ hs := by
  induction hs generalizing own with
  | nil => simp
  | cons h hs ih => simp [ih, releaseHandle, and_assoc]

theorem releases_self (hs : List Handle) : hs.foldl releaseHandle hs = [] :=
  List.eq_nil_iff_forall_not_mem.mpr fun x hx => ((mem_releases hs hs x).mp hx).elim fun h hn => hn h

/-- A rail drives no line. -/
theorem releases_rails (ks : List (Fin 7)) (v : Levels) : (ks.map .rail).foldl Levels.release v = v := by
  induction ks with
  | nil => rfl
  | cons k ks ih => exact ih

/-- Every output line is at `U` after the release of ATTACH's handles (R45). -/
theorem releases_handlesOf (n : BitVec 3) (v : Levels) :
    (handlesOf n).foldl Levels.release v = ⟨.unknown, .unknown, .unknown, .unknown, .unknown⟩ := by
  rw [handlesOf, List.foldl_append, List.foldl_append, releases_rails]
  rfl

/-- Settles O39: the handles of ATTACH, released in its order. -/
theorem detachRuns : Obligations.DetachRuns := by
  intro s d hdue hd hc hlc hown
  have steps : 9 + (railsOf s.nrails).length = 1 + ((handlesOf s.nrails).length + 1) := by
    rw [length_handlesOf, length_railsOf]
    omega
  have accepted := exec_detach (s := s.written) hc hlc
  have body := runSteps_releases (s := s.begun) (c := s.begunCont .detach) (rest := []) rfl rfl (handlesOf s.nrails)
  rw [show s.written.own = _ from hown, detachBody_handlesOf] at accepted
  rw [List.append_nil, show s.begun.own = _ from hown, releases_self, releases_handlesOf] at body
  rw [steps, hc]
  exact runSteps_command hdue (decodeHost_congr (e := 2) hd) accepted body rfl

/-! ### The transfer commands (R235 to R239) -/

/-- Settles O40: the raw word is the whole body. -/
theorem xferW9Runs : Obligations.XferW9Runs := by
  intro s d hdue hd hs hg
  obtain ⟨hc, ht⟩ := hs
  have accepted := exec_xferW9 (s := s.written) ⟨hc, ht⟩
  have body := runSteps_w9 (s := s.begun) (c := s.begunCont .xferW9) (rest := []) (w := s.argWord) rfl rfl hg
  rw [hc]
  exact runSteps_command hdue (decodeHost_congr (e := 0x10) hd) accepted body rfl

/-- A command whose body is a list of wire words, from its CMD write to its end. -/
theorem runSteps_wordsCommand {s : State} {d : Word} {i : Instr} {cmd : Command} {ws : List (Role × Byte)}
    (hdue : s.host = [⟨0, .write 0 d⟩]) (hd : decodeHost d = i) (hc : s.cont = none)
    (he : exec i s.written = .next (s.written.accept cmd (frameOps ws)))
    (hg : s.env.grants (29 * ws.length)) (hlc : cmd.lifecycle s.status.lc = s.status.lc) :
    runSteps (2 + 50 * ws.length) s = .next { s.sent ws with host := [], status.err := .ok } := by
  have body := runSteps_frames (s := s.begun) (c := s.begunCont cmd) (rest := []) rfl rfl hg
  have steps : 2 + 50 * ws.length = 1 + (50 * ws.length + 1) := by omega
  rw [List.append_nil] at body
  rw [steps, runSteps_command hdue hd he body rfl]
  simp [State.begun, State.sent, hlc, hc]

/-- Settles O42: the three words of a register write. -/
theorem regWriteRuns : Obligations.RegWriteRuns := by
  intro s d hdue hd hs hg
  obtain ⟨hc, ht⟩ := hs
  have accepted := exec_regWrite (s := s.written) ⟨hc, ht⟩
  exact ⟨runSteps_wordsCommand (ws := registerWords s.argId s.arg1) hdue (decodeHost_congr (e := 0x20) hd) hc accepted
    hg rfl, length_wordEvents _ _⟩

/-- Settles O44: the words of a command packet. -/
theorem pktSendRuns : Obligations.PktSendRuns := by
  intro s d bytes hdue hd hs hlen h1 h256 hw hg
  obtain ⟨hc, ht⟩ := hs
  have accepted := exec_pktSend_written (s := s.written) ⟨hc, ht⟩ hlen h1 h256 hw
  rw [sendCommandPacket_eq_frameOps] at accepted
  rw [← length_packetWords s.cfg] at hg ⊢
  exact runSteps_wordsCommand hdue (decodeHost_congr (e := 0x22) hd) hc accepted hg rfl

/-! ### The commands that read (R236, R238) -/

/-- A command whose body is a list of wire words and then a read, from its CMD write to its end. -/
theorem runSteps_readCommand {s : State} {d : Word} {i : Instr} {cmd : Command} {ws : List (Role × Byte)}
    (hdue : s.host = [⟨0, .write 0 d⟩]) (hd : decodeHost d = i) (hc : s.cont = none)
    (he : exec i s.written = .next (s.written.accept cmd (frameOps ws ++ [.read16])))
    (hg : s.env.grants (29 * ws.length + 50)) (hlc : cmd.lifecycle s.status.lc = s.status.lc) :
    ∃ raw, s.env.samples raw ∧ runSteps (87 + 50 * ws.length) s = .next { s.sent ws with
      host := []
      status.err := .ok
      rdata := swap16 raw
      rraw := raw
      trace := s.trace ++ wordEvents s.cfg ws ++ readEvents s.cfg raw
      lvl := (s.lvl.afterWords s.cfg ws).afterRead
      env := { s.env with calls := s.env.calls + 29 * ws.length + 50, draws := s.env.draws + 16 } } := by
  obtain ⟨hwords, hread⟩ := Env.grants_add hg
  have words := runSteps_frames (s := s.begun) (c := s.begunCont cmd) (rest := [.read16]) rfl rfl hwords
  obtain ⟨raw, hraw, read⟩ := runSteps_read (s := s.begun.sent ws) (c := s.begunCont cmd) (rest := []) rfl rfl hread
  refine ⟨raw, hraw, ?_⟩
  have steps : 87 + 50 * ws.length = 1 + (50 * ws.length + 86) := by omega
  rw [steps, runSteps_trans 1 _ rfl (runSteps_one (step_accepted hdue hd he)) (runSteps_trans _ 86 rfl words read)]
  simp [State.begun, State.begunCont, State.sent, Env.afterCalls, hlc, hc]

/-- Settles O41: the read is the whole body. -/
theorem xferR16Runs : Obligations.XferR16Runs := by
  intro s d hdue hd hs hg
  obtain ⟨hc, ht⟩ := hs
  have accepted := exec_xferR16 (s := s.written) ⟨hc, ht⟩
  obtain ⟨raw, hraw, run⟩ := runSteps_readCommand (ws := []) hdue (decodeHost_congr (e := 0x11) hd) hc accepted hg rfl
  exact ⟨raw, hraw, run.trans (by simp [State.sent, wordEvents, Levels.afterWords])⟩

/-- Settles O43: the five words of the handshake, and the read. -/
theorem regReadRuns : Obligations.RegReadRuns := by
  intro s d hdue hd hs hg
  obtain ⟨hc, ht⟩ := hs
  have accepted := exec_regRead (s := s.written) ⟨hc, ht⟩
  obtain ⟨raw, hraw, run⟩ := runSteps_readCommand (ws := handshakeWords s.cfg s.argId) hdue
    (decodeHost_congr (e := 0x21) hd) hc accepted hg rfl
  refine ⟨raw, hraw, run, ?_⟩
  rw [List.length_append, length_wordEvents]
  rfl

end Sys2Proof.Machine

/-! ## Proofs: the flags that a raised error sets (O35)

One lemma per field of the status that `raise` leaves; the statement is their conjunction. -/

namespace Sys2Proof.Machine

/-! ### The fields of a raised status (R274) -/

@[simp] theorem Status.raised_err (st : Status) (e : ErrCode) (k : Option Command) : (st.raised e k).err = e := rfl

@[simp] theorem Status.raised_pstate (st : Status) (e : ErrCode) (k : Option Command) :
    (st.raised e k).pstate = st.pstate := rfl

@[simp] theorem Status.raised_busyViol (st : Status) (e : ErrCode) (k : Option Command) :
    (st.raised e k).busyViol = st.busyViol := rfl

theorem Status.raised_lineFault_iff (st : Status) (e : ErrCode) (k : Option Command) :
    (st.raised e k).lineFault = true ↔ st.lineFault = true ∨ e = .line := by
  rw [Status.raised, Bool.or_eq_true, beq_iff_eq]

theorem Status.raised_aborted_iff (st : Status) (e : ErrCode) (cmd : Command) :
    (st.raised e (some cmd)).aborted = true ↔ st.aborted = true ∨ cmd = .powerOn := by
  rw [Status.raised, Bool.or_eq_true, beq_iff_eq, Option.some_inj]

/-- Only an error in ATTACH moves the lifecycle. -/
theorem Status.raised_lc (st : Status) (e : ErrCode) (cmd : Command) :
    (st.raised e (some cmd)).lc = if cmd = .attach then .failed else st.lc := by
  simp only [Status.raised, Option.some_inj]

/-- Settles O35, field by field. -/
theorem raisedErrorFlags : Obligations.RaisedErrorFlags := by
  intro st e cmd
  have failed : cmd = .attach → (st.raised e (some cmd)).lc = .failed := fun h => (st.raised_lc e cmd).trans (if_pos h)
  have kept : cmd ≠ .attach → (st.raised e (some cmd)).lc = st.lc := fun h => (st.raised_lc e cmd).trans (if_neg h)
  exact ⟨_, rfl, st.raised_err e _, st.raised_lineFault_iff e _, failed, kept, st.raised_aborted_iff e cmd,
    st.raised_pstate e _, st.raised_busyViol e _⟩

end Sys2Proof.Machine

/-! ## Proofs: the reset state (O1, O2, O60)

What holds of every idle state is stated for one: it waits for the host, and the invariants of the command in progress
hold of it. -/

namespace Sys2Proof.Machine

/-! ### An idle controller (R9, R301) -/

section Idle

variable {s : State} (hc : s.cont = none)

include hc

theorem State.controllerNext_idle : s.controllerNext = .goto s := by
  rw [State.controllerNext, hc]

/-- Until an action of the host is due, the step of an idle block only brings the next action nearer. -/
theorem step_idle_notDue (h : ∀ act rest, ¬ s.due act rest) : ∃ hs, step s = .next { s with host := hs } := by
  match hh : s.host with
  | [] => exact ⟨s.host, step_goto ((State.next_of_noHost hh).trans (State.controllerNext_idle hc))⟩
  | ⟨0, act⟩ :: rest => exact absurd hh (h act rest)
  | ⟨n + 1, act⟩ :: rest =>
    refine ⟨⟨n, act⟩ :: rest, step_goto ?_⟩
    rw [State.next, hh]
    exact State.controllerNext_idle (s := { s with host := ⟨n, act⟩ :: rest }) hc

theorem State.powerInv_of_idle : s.powerInv := fun _ h => nomatch hc.symm.trans h

theorem State.lifecycleInv_of_idle : s.lifecycleInv := fun _ h => nomatch hc.symm.trans h

/-- An idle block that is not attached says nothing of its lines (R145). -/
theorem State.busInv_of_idle_unattached (hlc : s.status.lc ≠ .attached) : s.busInv :=
  (State.busInv_idle hc).mpr fun h => absurd h hlc

end Idle

/-! ### Reset (R300, R301) -/

theorem State.reset_statusWord : State.reset.statusWord = 0 := rfl

theorem State.reset_readReg (r : HostReg) :
    State.reset.readReg r = if r = .bright then 100 else if r = .nrails then 1 else 0 := by
  cases r <;> rfl

theorem State.reset_line (l : Line) : State.reset.lvl.get l = .unknown := by
  cases l <;> rfl

/-- Settles O1: the table row by row; then the block is idle, so it waits. -/
theorem resetLeavesTheSpecifiedState : Obligations.ResetLeavesTheSpecifiedState := by
  have waits (hs : List HostSlot) (h : ∀ act rest, hs ≠ ⟨0, act⟩ :: rest) :
      ∃ hs', step { State.reset with host := hs } = .next { State.reset with host := hs' } :=
    step_idle_notDue (s := { State.reset with host := hs }) rfl h
  exact ⟨rfl, rfl, State.reset_statusWord, rfl, rfl, rfl, rfl, rfl, rfl, rfl, rfl, rfl, rfl, rfl, rfl, rfl, rfl,
    fun _ => State.reset.hostRead_reserved, fun r _ => State.reset_readReg r, State.reset_line, rfl, fun _ => rfl, rfl,
    rfl, waits⟩

/-- Settles O2: the host's reset comes before the command in progress. -/
theorem platformResetFromAnyState : Obligations.PlatformResetFromAnyState :=
  fun _ _ hd => step_goto (State.next_of_due hd)

/-- Settles O60: after reset the buffers are unwritten, no command is in progress, and the block is Detached. -/
theorem resetMeetsTheInvariants : Obligations.ResetMeetsTheInvariants := by
  have idle : State.reset.cont = none := rfl
  have buffers : State.reset.buffersInv := ⟨State.reset_mem_wf, rfl⟩
  have bright : State.reset.brightInv := Nat.le_refl 100
  have bus : State.reset.busInv := State.busInv_of_idle_unattached idle (by decide)
  exact ⟨buffers, bright, State.powerInv_of_idle idle, State.lifecycleInv_of_idle idle, bus,
    State.scriptInv_of_idle idle, rfl, by decide⟩

end Sys2Proof.Machine
